-- ==== Sys2Proof/Word.lean ====
section
/-! DEFINITION. The word types of NOVO-DEC (spec R9: every value is an unsigned bit string). -/

namespace Sys2Proof

/-- One bit: the operands `d` and `l` of an event word (R71) and the output of ISOFF (R77). -/
abbrev Bit := BitVec 1

/-- A 4-bit nibble: the operand `n` (R71) and one bank of the display register (R158). -/
abbrev Nibble := BitVec 4

/-- 8 bits: an event word (R70), a control register (R22), a character (R10). -/
abbrev Byte := BitVec 8

/-- 32 bits: the accumulator (`ACC_W`, R7) and the display register (R22, R24). -/
abbrev Word := BitVec 32

/-- A byte string (R10, R170). -/
abbrev Text := List Byte

end Sys2Proof
end

