-- ==== Sys2Proof/Config.lean ====
section
/-! DEFINITION. The construction-time parameters of NOVO-DEC (spec R7, R26, R27): a structure that the configured
meanings take as an argument, never a part of State. The values of this hardware stand in Machine/Hardware.lean. -/

namespace Sys2Proof

/-- An edge of a line. -/
inductive Edge where
  | rising
  | falling
  deriving DecidableEq, Repr

/-- The source's `edgeMode` (R205), the type of `CLK_EDGE` (R122). `anyEdge` is refused for the clock (R122, C1). -/
inductive EdgeMode where
  | rising
  | falling
  | anyEdge
  deriving DecidableEq, Repr

/-- `CS_MODE` (R7, R131). -/
inductive CsMode where
  | transition
  | level
  deriving DecidableEq, Repr

/-- `CENT_READING` (R7, R180). -/
inductive CentReading where
  | bit16Units
  | fieldValue
  deriving DecidableEq, Repr

/-- The phases of R177; NONE is the absence of one. -/
inductive Phase where
  | preWashing
  | washing
  | rinsing
  | pausedRinse
  | pumping
  | spinning
  | idleFinished
  | ready
  deriving DecidableEq, Repr

/-- A bank of the display register: one of its three lowest nibbles (R12, R156). -/
abbrev Bank := Fin 3

/-- `VOTES`, the consensus window of this hardware (R7, R8, D23). -/
abbrev votes : Nat := 3

/-- `CTRL_LEN`, the length of a control frame (R7). -/
abbrev ctrlLen : Byte := 8

/-- `DISP_LEN`, the length of a display frame (R7). -/
abbrev dispLen : Byte := 24

/-- The parameters of R7 that are not a width: fixed at construction, an argument of the step and not state (R27). -/
structure Config where
  /-- `CLK_EDGE` -/
  clkEdge : EdgeMode
  /-- `CS_ACTIVE_LOW` -/
  csActiveLow : Bool
  /-- `CS_MODE` -/
  csMode : CsMode
  /-- `CTRL_INIT` -/
  ctrlInit : Byte
  /-- `DISP_INIT` -/
  dispInit : Word
  /-- `DISP_FEED_MASK` -/
  dispFeedMask : Word
  /-- `SPECIAL_TABLE` -/
  specialTable : Nibble → Byte
  /-- `SPECIAL_MASK[0..2]` -/
  specialMask : Bank → Byte
  /-- `SPECIAL_VALUE[0..2]` -/
  specialValue : Bank → Byte
  /-- `PROGRESS_CODE` -/
  progressCode : Word → Byte
  /-- `PHASE_TABLE`; none is NONE -/
  phaseTable : Byte → Option Phase
  /-- `CENT_READING` -/
  centReading : CentReading
  /-- `CENT_LABELS`; none is NONE -/
  centLabels : Byte → Option Text

/-- `SPECIAL_MASK[0..2]`: OPEN, no default (R156, D14): nothing is known of its values. Log 7. -/
opaque Config.openSpecialMask : Bank → Byte

/-- `SPECIAL_VALUE[0..2]`: OPEN, no default (R156, D14): nothing is known of its values. Log 7. -/
opaque Config.openSpecialValue : Bank → Byte

/-- `PHASE_TABLE` at the codes other than 0x20: OPEN (R177, D16): nothing is known of its values. Log 8. -/
opaque Config.openPhaseTable : Byte → Option Phase

/-- `SINK_INIT`, the output sink's value before the first publish: OPEN, a host parameter (R212, D28). Log 12. -/
opaque Config.openSinkInit : Text

end Sys2Proof
end

