-- ==== Sys2Proof/Machine/Text.lean ====
section
/-! DEFINITION. The encoding of characters and labels as bytes (spec R10, R170, D22). -/

namespace Sys2Proof.Machine

/-- The byte of an ASCII character (R10). -/
def ascii (c : Char) : Byte := BitVec.ofNat 8 c.toNat

/-- A label as a byte string in UTF-8 (R170): ASCII characters are one byte each, 'Ø' is 0xC3 0x98. Log 11. -/
def label (s : String) : Text :=
  s.toList.flatMap (fun c => (String.utf8EncodeChar c).map (fun b => BitVec.ofNat 8 b.toNat))

/-- The byte of ' ' (R10). -/
def space : Byte := 0x20

/-- The byte of '-' (R152). -/
def dash : Byte := 0x2D

/-- `v[hi:lo]` of R9, as a field of `len` bits from bit `lo` up. -/
def field (v : Word) (lo len : Nat) : BitVec len := v.extractLsb' lo len

end Sys2Proof.Machine
end

