-- ==== Sys2Proof/Machine/Hardware.lean ====
section
/-! DEFINITION. The configuration of this hardware: the spec's value or default for each parameter of R7, and the opaque
constants of Config.lean where R7 says OPEN and gives no default. -/

namespace Sys2Proof.Machine

/-- The default `SPECIAL_TABLE` (R152). Entries 0x0 and 0xD are confirmed; the others are the spec's reading (D13). -/
def defaultSpecialTable (n : Nibble) : Byte :=
  match n.toNat with
  | 0x0 => ascii ' '
  | 0x1 => ascii 'c'
  | 0x2 => ascii 'H'
  | 0x3 => ascii 'h'
  | 0x4 => ascii 'J'
  | 0x5 => ascii 'L'
  | 0x6 => ascii 'n'
  | 0x7 => ascii 'o'
  | 0x8 => ascii 'P'
  | 0x9 => ascii 'r'
  | 0xA => ascii 'U'
  | 0xB => ascii 'u'
  | 0xC => ascii 'y'
  | 0xD => ascii '-'
  | 0xE => ascii '='
  | _ => ascii 'o'

/-- The default reading of `PROGRESS_CODE` (R176, D15): `(rd[15:12] << 4) | rd[2:0]`. -/
def defaultProgressCode (rd : Word) : Byte :=
  ((field rd 12 4).setWidth 8 <<< 4) ||| (field rd 0 3).setWidth 8

/-- A `PHASE_TABLE` whose code 0x20 is WASHING, as R177 fixes it, and whose other codes are `others`. -/
def phaseTableOver (others : Byte → Option Phase) (code : Byte) : Option Phase :=
  if code = 0x20 then some .washing else others code

/-- The default `CENT_LABELS` (R181, D18). -/
def defaultCentLabels (k : Byte) : Option Text :=
  match k.toNat with
  | 0x02 => some (label "Ø 1600")
  | 0x04 => some (label "Ø 1400")
  | 0x08 => some (label "Ø 1200")
  | 0x50 => some (label "Ø 900")
  | 0x40 => some (label "Ø 600")
  | 0x30 => some (label "Ø 400")
  | 0x20 => some (label "Rinse-pause")
  | 0x10 => some (label "No")
  | _ => none

end Sys2Proof.Machine

namespace Sys2Proof

/-- The parameters of this hardware (R7). Log 9 for the defaults, logs 7 and 8 for the OPEN ones. -/
def Config.hardware : Config where
  clkEdge := .rising
  csActiveLow := true
  csMode := .transition
  ctrlInit := 0x00
  dispInit := 0x00000000
  dispFeedMask := 0xFFFFFFFF
  specialTable := Machine.defaultSpecialTable
  specialMask := Config.openSpecialMask
  specialValue := Config.openSpecialValue
  progressCode := Machine.defaultProgressCode
  phaseTable := Machine.phaseTableOver Config.openPhaseTable
  centReading := .bit16Units
  centLabels := Machine.defaultCentLabels

end Sys2Proof
end

