-- ==== Sys2Proof/Syntax.lean ====
section
/-! DEFINITION. The ten operations of NOVO-DEC, one constructor for each row of spec/opcode_table.json (R3, R74), and
the operand fields of their event words (R70, R71). -/

namespace Sys2Proof

/-- A channel: 0 is the chip called left, 1 the chip called right (R13, `NUM_CH` = 2). -/
inductive Chan where
  | left
  | right
  deriving DecidableEq, Repr

/-- The channel's number, as a one-bit operand (R71). -/
def Chan.bit : Chan → Bit
  | .left => 0
  | .right => 1

/-- The channel that a one-bit operand names (R71). -/
def Chan.ofBit (b : Bit) : Chan := if b = 0 then .left else .right

/-- The other channel. -/
def Chan.other : Chan → Chan
  | .left => .right
  | .right => .left

/-- The operations of R74. CLK and CS are input events, the others queries (R76). -/
inductive Instr where
  /-- CLK d: one active clock edge with data sample `d` (R121). -/
  | clk (d : Bit)
  /-- CS c, l: one edge of chip-select line `c`, after which it is at level `l` (R123). -/
  | cs (c : Chan) (l : Bit)
  /-- RDC ch: read the visible control register (R106). -/
  | rdc (ch : Chan)
  /-- RDD ch: read the visible display register (R107). -/
  | rdd (ch : Chan)
  /-- DBANK.H n: look up a nibble in the hexadecimal table (R153). -/
  | dbankH (n : Nibble)
  /-- DBANK.S n: look up a nibble in the special table (R154). -/
  | dbankS (n : Nibble)
  /-- DDISP ch: decode the three display characters (R157). -/
  | ddisp (ch : Chan)
  /-- ISOFF ch: is the display off (R159). -/
  | isoff (ch : Chan)
  /-- FTIME: the remaining-time string (R171). -/
  | ftime
  /-- FSTATE: the state and program string (R185). -/
  | fstate
  deriving DecidableEq, Repr

/-- Why an event word is reserved (the two families of R79). -/
inductive Reject where
  /-- `op` is one of 0x0 and 0xB to 0xF. -/
  | reservedOp
  /-- An assigned `op` with a reserved bit of `arg` set. -/
  | reservedArg
  deriving DecidableEq, Repr

/-- An operand in its place: bits `hi` down to `lo` of `arg` hold `value` (R71). -/
structure Field where
  hi : Nat
  lo : Nat
  value : Nat
  deriving DecidableEq, Repr

/-- The operation selector `op` of each operation (R74). -/
def Instr.op : Instr → Nibble
  | .clk _ => 0x1
  | .cs _ _ => 0x2
  | .rdc _ => 0x3
  | .rdd _ => 0x4
  | .dbankH _ => 0x5
  | .dbankS _ => 0x6
  | .ddisp _ => 0x7
  | .isoff _ => 0x8
  | .ftime => 0x9
  | .fstate => 0xA

/-- The operand fields of each operation, in the order of its assembler syntax (R71, R81). -/
def Instr.fields : Instr → List Field
  | .clk d => [⟨0, 0, d.toNat⟩]
  | .cs c l => [⟨1, 1, c.bit.toNat⟩, ⟨0, 0, l.toNat⟩]
  | .rdc ch => [⟨0, 0, ch.bit.toNat⟩]
  | .rdd ch => [⟨0, 0, ch.bit.toNat⟩]
  | .dbankH n => [⟨3, 0, n.toNat⟩]
  | .dbankS n => [⟨3, 0, n.toNat⟩]
  | .ddisp ch => [⟨0, 0, ch.bit.toNat⟩]
  | .isoff ch => [⟨0, 0, ch.bit.toNat⟩]
  | .ftime => []
  | .fstate => []

/-- The input events (R76): the operations that change the block's state and drive no output. -/
def Instr.isInput : Instr → Bool
  | .clk _ => true
  | .cs _ _ => true
  | .rdc _ => false
  | .rdd _ => false
  | .dbankH _ => false
  | .dbankS _ => false
  | .ddisp _ => false
  | .isoff _ => false
  | .ftime => false
  | .fstate => false

end Sys2Proof
end

