-- ==== Sys2Proof/WellFormed.lean ====
section
/-! DEFINITION. What the spec requires of an operand field (R71), of an event word (R79) and of a configuration (R7,
R122, D23). The operand types of `Instr` hold only values that fit their field, so the checks that can fail are those on
fields, words and configurations. -/

namespace Sys2Proof

/-- A field lies inside `arg` (bits 3:0, R70), its bounds in order, and its value fits its width (R71). -/
def Field.fits (f : Field) : Bool :=
  decide (f.lo ≤ f.hi) && decide (f.hi ≤ 3) && decide (f.value < 2 ^ (f.hi + 1 - f.lo))

/-- The fields of an operation fit and do not overlap (R71). -/
def fieldsWellFormed (fs : List Field) : Bool :=
  fs.all Field.fits && decide (fs.Pairwise (fun a b => a.hi < b.lo ∨ b.hi < a.lo))

/-- An operation's operands fit their fields (R71). -/
def Instr.wellFormed (i : Instr) : Bool := fieldsWellFormed i.fields

/-- The reserved event words, as R79 lists them: `op` unassigned, or a reserved bit of `arg` set. -/
def reservedWord (w : Byte) : Bool :=
  let op := (w.extractLsb' 4 4).toNat
  let arg := (w.extractLsb' 0 4).toNat
  (op = 0x0 || 0xB ≤ op)
  || ((op = 0x1 || op = 0x3 || op = 0x4 || op = 0x7 || op = 0x8) && 2 ≤ arg)
  || (op = 0x2 && 4 ≤ arg)
  || ((op = 0x9 || op = 0xA) && 1 ≤ arg)

/-- Why a configuration is refused. -/
inductive ConfigReject where
  /-- `CLK_EDGE` = ANY (R122, D2). -/
  | clkEdgeAny
  /-- `VOTES` = 0 (D23). -/
  | votesZero
  deriving DecidableEq, Repr

/-- The configurations that spec/93_implementation_defined.md says to refuse, and why. -/
def configReject (votes : Nat) (cfg : Config) : Option ConfigReject :=
  if votes = 0 then some .votesZero
  else if cfg.clkEdge = .anyEdge then some .clkEdgeAny
  else none

/-- What the spec fixes about a configuration: it is not refused, `DISP_FEED_MASK` is one of the two values of R126,
`SPECIAL_TABLE` has its two confirmed entries (R152), `PHASE_TABLE(0x20)` = WASHING (R177), and the centrifuge code 0x04
has the label that the source gives, which is "Ø 1400" in UTF-8 (R181, R170). -/
def Config.wellFormed (votes : Nat) (cfg : Config) : Bool :=
  decide (configReject votes cfg = none)
  && (cfg.dispFeedMask == 0xFFFFFFFF || cfg.dispFeedMask == 0x00FFFFFF)
  && cfg.specialTable 0x0 == 0x20
  && cfg.specialTable 0xD == 0x2D
  && decide (cfg.phaseTable 0x20 = some .washing)
  && decide (cfg.centLabels 0x04 = some [0xC3, 0x98, 0x20, 0x31, 0x34, 0x30, 0x30])

end Sys2Proof
end

