-- ==== Sys2Proof/Machine/State.lean ====
section
/-! DEFINITION. The state of NOVO-DEC (spec 10_state.md R20 to R25), its output port (R77), the event words still to
come, the reasons for a stop, and reset (R29, R220). -/

namespace Sys2Proof.Machine

/-- The source's RingBuffer: `n` slots of `w` bits, the index of the next slot to be written, and the number of slots
that hold a pushed value (R23). -/
structure RingBuffer (n w : Nat) where
  slots : Vector (BitVec w) n
  head : Fin n
  size : Fin (n + 1)
  deriving DecidableEq, Repr

/-- A ring at reset: every slot 0, `head` 0, `size` 0 (R29). -/
def RingBuffer.empty (n w : Nat) (h : 0 < n) : RingBuffer n w where
  slots := Vector.replicate n 0
  head := ⟨0, h⟩
  size := ⟨0, Nat.succ_pos n⟩

/-- A consensus filter: a ring and the visible value that it guards (R104). -/
structure Filter (n w : Nat) where
  ring : RingBuffer n w
  vis : BitVec w
  deriving DecidableEq, Repr

/-- A filter at reset: an empty window and the initial visible value (R29). -/
def Filter.empty (n w : Nat) (h : 0 < n) (init : BitVec w) : Filter n w where
  ring := RingBuffer.empty n w h
  vis := init

/-- The registers of one channel (R22), with a consensus window of `n`. -/
structure Channel (n : Nat) where
  sel : Bool
  acc : Word
  cnt : Byte
  cring : RingBuffer n 8
  cvis : Byte
  dring : RingBuffer n 32
  dvis : Word
  deriving DecidableEq, Repr

/-- A channel at reset (R29). -/
def Channel.reset (n : Nat) (h : 0 < n) (ctrlInit : Byte) (dispInit : Word) : Channel n where
  sel := false
  acc := 0x00000000
  cnt := 0x00
  cring := RingBuffer.empty n 8 h
  cvis := ctrlInit
  dring := RingBuffer.empty n 32 h
  dvis := dispInit

/-- The three characters of a display (R77, R158). -/
structure Chars where
  c0 : Byte
  c1 : Byte
  c2 : Byte
  deriving DecidableEq, Repr

/-- What a query drives on the output port, by the type that R77 gives it. -/
inductive Output where
  /-- RDC: an 8-bit value. -/
  | byte (v : Byte)
  /-- RDD: a 32-bit value. -/
  | word (v : Word)
  /-- DBANK.H and DBANK.S: one character. -/
  | char (c : Byte)
  /-- DDISP: three characters. -/
  | chars (t : Chars)
  /-- ISOFF: one bit, 1 for off. -/
  | bit (b : Bit)
  /-- FTIME and FSTATE: a byte string. -/
  | text (t : Text)
  deriving DecidableEq, Repr

/-- The state of the model: the two channels, which are the whole state of the block (R20); what the event taken last
drives on the output port, nothing for an input event (R76); and the model's bookkeeping, which is no state of the block
(R21): the event words not yet taken, oldest first, and the index of the next one. -/
structure State where
  left : Channel votes
  right : Channel votes
  out : Option Output
  pending : List Byte
  index : Nat
  deriving DecidableEq, Repr

/-- The faults of the block: there are none, "the block raises no exception, trap or error signal" (R200). The type has
no constructor, so nobody raises one; that is safe, and it is what R200 says. -/
inductive Fault where
  deriving DecidableEq, Repr

/-- The refusals. -/
inductive Refusal where
  /-- An operation that has no meaning yet; raised by `exec`'s arms only, and by none of them now. Safe. -/
  | notModelled (mnemonic : String)
  /-- A reserved event word, and why it is one; raised by the step that would take it (R80). Safe: R80 itself "errs
  toward unprovable". -/
  | reservedEvent (word : Byte) (why : Reject)
  /-- A configuration that the spec refuses (R122, D23); raised by the configured step only, never with this hardware's
  configuration. Safe. -/
  | badConfig (why : ConfigReject)
  deriving DecidableEq, Repr

/-- The outcome of one step. -/
abbrev Result := Host.Outcome State Fault Refusal

/-- The state right after reset under a configuration (R29, R220): both channels at their reset values, nothing driven,
no event delivered. -/
def State.resetWith (cfg : Config) : State where
  left := Channel.reset votes (by decide) cfg.ctrlInit cfg.dispInit
  right := Channel.reset votes (by decide) cfg.ctrlInit cfg.dispInit
  out := none
  pending := []
  index := 0

/-- The state of this hardware right after reset (R29, R220). -/
def State.reset : State := State.resetWith Config.hardware

end Sys2Proof.Machine
end

