-- ==== Sys2Proof/Machine/Flags.lean ====
section
/-! DEFINITION. The one status flag of the block, `sel` (R25): when a chip-select event acts on it. -/

namespace Sys2Proof.Machine

/-- A chip-select event changes nothing at all: `CS_MODE` = TRANSITION and the selected sense is the flag's value already
(R123, R131). -/
def csIgnored (mode : CsMode) (sel sense : Bool) : Bool :=
  match mode with
  | .transition => sense == sel
  | .level => false

end Sys2Proof.Machine
end

