-- ==== Sys2Proof/Machine/Operands.lean ====
section
/-! DEFINITION. The operand forms: a channel operand selects one channel's registers (R71), and the level of a
chip-select line is turned into the selected sense by the polarity (R73). -/

namespace Sys2Proof.Machine

/-- `ch[c]`: the registers of channel `c` (R10, R13). -/
def State.chan (s : State) : Chan → Channel votes
  | .left => s.left
  | .right => s.right

/-- `ch[c] <- x` (R10). -/
def State.setChan (s : State) (c : Chan) (x : Channel votes) : State :=
  match c with
  | .left => { s with left := x }
  | .right => { s with right := x }

/-- `selected` of R73: level 0 when the chip select is active low, level 1 when it is active high. -/
def selectedSense (activeLow : Bool) (l : Bit) : Bool :=
  if activeLow then l == 0 else l == 1

/-- The control filter of a channel (R104). -/
def Channel.ctrlFilter {n : Nat} (x : Channel n) : Filter n 8 := ⟨x.cring, x.cvis⟩

/-- The display filter of a channel (R104). -/
def Channel.dispFilter {n : Nat} (x : Channel n) : Filter n 32 := ⟨x.dring, x.dvis⟩

/-- Put back the control filter of a channel. -/
def Channel.setCtrlFilter {n : Nat} (x : Channel n) (f : Filter n 8) : Channel n :=
  { x with cring := f.ring, cvis := f.vis }

/-- Put back the display filter of a channel. -/
def Channel.setDispFilter {n : Nat} (x : Channel n) (f : Filter n 32) : Channel n :=
  { x with dring := f.ring, dvis := f.vis }

end Sys2Proof.Machine
end

