-- ==== Sys2Proof/Machine/Ops.lean ====
section
/-! DEFINITION. The shared operations: `push` (R100), `feed` (R104), the clock's shift (R121), `latch` (R124), the
chip-select edge (R123), and driving the output port (R10, R76). The block takes no exception and returns from none
(R200, R203), so there is no operation for either. -/

namespace Sys2Proof.Machine

/-- `push(r, v)` (R100): overwrite the slot at `head`, step `head` modulo the capacity, count up to the capacity. -/
def RingBuffer.push {n w : Nat} (r : RingBuffer n w) (v : BitVec w) : RingBuffer n w where
  slots := r.slots.set r.head v r.head.isLt
  head := ⟨(r.head + 1) % n, Nat.mod_lt _ (Nat.lt_of_le_of_lt (Nat.zero_le _) r.head.isLt)⟩
  size := ⟨min (r.size + 1) n, Nat.lt_succ_of_le (Nat.min_le_right _ _)⟩

/-- Every slot equals every other: "for all i, j in 0..N-1: slot[i] == slot[j]" (R104). -/
abbrev RingBuffer.unanimous {n w : Nat} (r : RingBuffer n w) : Prop :=
  ∀ i j : Fin n, r.slots[i] = r.slots[j]

/-- The window is full: `size == N` (R104). -/
abbrev RingBuffer.full {n w : Nat} (r : RingBuffer n w) : Prop := r.size.val = n

/-- `slot[0]`, or `v` in a ring with no slot (no such ring has a `head`; R104 says that `slot[0]` equals the value fed). -/
def RingBuffer.slot0 {n w : Nat} (r : RingBuffer n w) (v : BitVec w) : BitVec w :=
  if h : 0 < n then r.slots[0] else v

/-- `feed(f, v)` (R104): push, then show the common value if the window is full and unanimous. -/
def Filter.feed {n w : Nat} (f : Filter n w) (v : BitVec w) : Filter n w :=
  let r := f.ring.push v
  { ring := r, vis := if r.full ∧ r.unanimous then r.slot0 v else f.vis }

/-- One active clock edge seen by one channel (R121): a selected channel shifts the data bit in at the low end and
counts, both modulo their widths; a deselected channel ignores the edge. -/
def Channel.tick {n : Nat} (d : Bit) (x : Channel n) : Channel n :=
  if x.sel then { x with acc := (x.acc <<< 1) ||| d.setWidth 32, cnt := x.cnt + 1 } else x

/-- `latch(c)` (R124 to R127): feed the low 8 bits of the accumulator into the control filter after 8 bits, the masked
accumulator into the display filter after 24, and nothing after any other count. -/
def Channel.latch {n : Nat} (mask : Word) (x : Channel n) : Channel n :=
  if x.cnt = ctrlLen then x.setCtrlFilter (x.ctrlFilter.feed (x.acc.extractLsb' 0 8))
  else if x.cnt = dispLen then x.setDispFilter (x.dispFilter.feed (x.acc &&& mask))
  else x

/-- A chip-select edge after which the line is at level `l`, seen by its channel (R123). -/
def Channel.selectEdge {n : Nat} (cfg : Config) (l : Bit) (x : Channel n) : Channel n :=
  let sense := selectedSense cfg.csActiveLow l
  if csIgnored cfg.csMode x.sel sense then x
  else if sense then { x with sel := true, acc := 0, cnt := 0 }
  else { x with sel := false }.latch cfg.dispFeedMask

/-- `out <- v`: a query drives the output port (R10). -/
def State.drive (s : State) (v : Output) : State := { s with out := some v }

/-- An input event drives no output (R76). -/
def State.driveNothing (s : State) : State := { s with out := none }

end Sys2Proof.Machine
end

