-- ==== Sys2Proof/Machine/Tables.lean ====
section
/-! DEFINITION. The lookup tables and the meanings of DBANK.H, DBANK.S, DDISP and ISOFF (spec
42_register_decoder.md). -/

namespace Sys2Proof.Machine

/-- `HEX_TABLE` (R151). -/
def hexTable (n : Nibble) : Byte :=
  match n.toNat with
  | 0x0 => ascii '0'
  | 0x1 => ascii '1'
  | 0x2 => ascii '2'
  | 0x3 => ascii '3'
  | 0x4 => ascii '4'
  | 0x5 => ascii '5'
  | 0x6 => ascii '6'
  | 0x7 => ascii '7'
  | 0x8 => ascii '8'
  | 0x9 => ascii '9'
  | 0xA => ascii 'A'
  | 0xB => ascii 'B'
  | 0xC => ascii 'C'
  | 0xD => ascii 'D'
  | 0xE => ascii 'E'
  | _ => ascii 'F'

/-- `decodeBank(n, special)` (R155). -/
def decodeBank (cfg : Config) (n : Nibble) (special : Bool) : Byte :=
  if special then cfg.specialTable n else hexTable n

/-- `decodeBank` of an input of any width: it is first masked to its low 4 bits (R155). -/
def decodeBankOf (cfg : Config) {w : Nat} (v : BitVec w) (special : Bool) : Byte :=
  decodeBank cfg (v.setWidth 4) special

/-- `special_b(ctrl)` (R156). -/
def specialBank (cfg : Config) (b : Bank) (ctrl : Byte) : Bool :=
  (ctrl &&& cfg.specialMask b) == cfg.specialValue b

/-- `decodeDisplay(disp, ctrl)` (R158): bank 0 is bits 3:0, bank 1 bits 7:4, bank 2 bits 11:8. -/
def decodeDisplay (cfg : Config) (disp : Word) (ctrl : Byte) : Chars where
  c0 := decodeBank cfg (field disp 0 4) (specialBank cfg 0 ctrl)
  c1 := decodeBank cfg (field disp 4 4) (specialBank cfg 1 ctrl)
  c2 := decodeBank cfg (field disp 8 4) (specialBank cfg 2 ctrl)

/-- `isOff(ctrl)` (R159): bit 0 is 0. -/
def isOff (ctrl : Byte) : Bool := ctrl.getLsbD 0 == false

/-- DBANK.H n (R153). -/
def dbankHWith (cfg : Config) (n : Nibble) (s : State) : Result := .next (s.drive (.char (decodeBank cfg n false)))

/-- DBANK.H n (R153). -/
def execDbankH (n : Nibble) (s : State) : Result := dbankHWith Config.hardware n s

/-- DBANK.S n under a configuration (R154). -/
def dbankSWith (cfg : Config) (n : Nibble) (s : State) : Result := .next (s.drive (.char (decodeBank cfg n true)))

/-- DBANK.S n (R154). -/
def execDbankS (n : Nibble) (s : State) : Result := dbankSWith Config.hardware n s

/-- DDISP ch under a configuration (R157). -/
def ddispWith (cfg : Config) (ch : Chan) (s : State) : Result :=
  .next (s.drive (.chars (decodeDisplay cfg (s.chan ch).dvis (s.chan ch).cvis)))

/-- DDISP ch (R157). -/
def execDdisp (ch : Chan) (s : State) : Result := ddispWith Config.hardware ch s

/-- ISOFF ch (R159): 1 for off. -/
def execIsoff (ch : Chan) (s : State) : Result := .next (s.drive (.bit (BitVec.ofBool (isOff (s.chan ch).cvis))))

end Sys2Proof.Machine
end

