-- ==== Sys2Proof/Machine/Formatter.lean ====
section
/-! DEFINITION. The formatter functions and the meanings of FTIME and FSTATE (spec 43_formatter.md). -/

namespace Sys2Proof.Machine

/-- `rest` of R172: the characters other than ' ', in order. -/
def nonBlank (cs : List Byte) : Text := cs.filter (fun c => c != space)

/-- The tests of R172 on the three decoded characters of a display that is on, in their order. -/
def timeText (t : Chars) : Text :=
  if t.c0 = dash then label "---"
  else if t.c2 = space then label " "
  else if t.c0 ≠ space then [t.c0] ++ label "h " ++ nonBlank [t.c1, t.c2] ++ label "m"
  else nonBlank [t.c1, t.c2] ++ label " min"

/-- `formatTime(ctrl, disp)` (R172). -/
def formatTime (cfg : Config) (ctrl : Byte) (disp : Word) : Text :=
  if isOff ctrl then label " " else timeText (decodeDisplay cfg disp ctrl)

/-- `PHASE_LABEL` and the two labels of IDLE_FINISHED, which the left chip's decoded display tells apart (R177, R178). -/
def phaseLabel (left : Chars) : Phase → Text
  | .preWashing => label "Pre-washing"
  | .washing => label "Washing"
  | .rinsing => label "Rinsing"
  | .pausedRinse => label "Paused Rinse"
  | .pumping => label "Pumping"
  | .spinning => label "Spinning"
  | .idleFinished => if left = ⟨space, space, ascii '0'⟩ then label "Finished" else label "Idle"
  | .ready => label "Ready"

/-- The phase label, if the progress code has a phase (R174, R177). -/
def phaseLabels (cfg : Config) (left : Chars) (rd : Word) : List Text :=
  match cfg.phaseTable (cfg.progressCode rd) with
  | some ph => [phaseLabel left ph]
  | none => []

/-- `CENT_CODE(rd)` (R180): bits 22:17, in units of bit 16 or as the field's value. -/
def centCode (reading : CentReading) (rd : Word) : Byte :=
  match reading with
  | .bit16Units => (field rd 17 6).setWidth 8 <<< 1
  | .fieldValue => (field rd 17 6).setWidth 8

/-- The centrifuge label, if the code has one (R174, R181). -/
def centLabelList (cfg : Config) (rd : Word) : List Text :=
  match cfg.centLabels (centCode cfg.centReading rd) with
  | some t => [t]
  | none => []

/-- One option label, if its bit of `rd` is set (R182). -/
def optionLabel (rd : Word) (i : Nat) (name : String) : List Text :=
  if rd.getLsbD i then [label name] else []

/-- The option labels in their order (R182). -/
def optionLabels (rd : Word) : List Text :=
  optionLabel rd 8 "Pre-wash" ++ optionLabel rd 6 "Short" ++ optionLabel rd 7 "Wasser Plus" ++ optionLabel rd 16 "Summer"

/-- `join(labels, ", ")` (R183); no label gives the empty string (R184). -/
def joinLabels : List Text → Text
  | [] => []
  | t :: [] => t
  | t :: u :: rest => t ++ label ", " ++ joinLabels (u :: rest)

/-- The labels of the Normal state in the order phase, centrifuge, options (R174, R179, R183). -/
def stateLabels (cfg : Config) (left : Chars) (rd : Word) : List Text :=
  phaseLabels cfg left rd ++ centLabelList cfg rd ++ optionLabels rd

/-- `formatState(rc, rd, lc, ld)` (R174, R175). `rc` is an operand that no rule reads (D20). -/
def formatState (cfg : Config) (_rc : Byte) (rd : Word) (lc : Byte) (ld : Word) : Text :=
  if isOff lc then label "Door open"
  else
    let left := decodeDisplay cfg ld lc
    if left.c0 = dash then label "Fault" else joinLabels (stateLabels cfg left rd)

/-- FTIME under a configuration (R171). -/
def ftimeWith (cfg : Config) (s : State) : Result := .next (s.drive (.text (formatTime cfg s.left.cvis s.left.dvis)))

/-- FTIME (R171). -/
def execFtime (s : State) : Result := ftimeWith Config.hardware s

/-- FSTATE under a configuration (R185). -/
def fstateWith (cfg : Config) (s : State) : Result :=
  .next (s.drive (.text (formatState cfg s.right.cvis s.right.dvis s.left.cvis s.left.dvis)))

/-- FSTATE (R185). -/
def execFstate (s : State) : Result := fstateWith Config.hardware s

end Sys2Proof.Machine
end

