-- ==== Sys2Proof/Machine/InputEvents.lean ====
section
/-! DEFINITION. The meanings of the input events CLK and CS (spec 41_chip_decoder.md). -/

namespace Sys2Proof.Machine

/-- CLK d (R121): both channels take the same data sample in one step. -/
def execClk (d : Bit) (s : State) : Result :=
  .next { s with left := s.left.tick d, right := s.right.tick d }.driveNothing

/-- CS c, l under a configuration (R123): the edge acts on channel `c` alone. -/
def csWith (cfg : Config) (c : Chan) (l : Bit) (s : State) : Result :=
  .next (s.setChan c ((s.chan c).selectEdge cfg l)).driveNothing

/-- CS c, l (R123). -/
def execCs (c : Chan) (l : Bit) (s : State) : Result := csWith Config.hardware c l s

end Sys2Proof.Machine
end

