-- ==== Sys2Proof/Machine/ReadPorts.lean ====
section
/-! DEFINITION. The meanings of the read ports RDC and RDD (spec 40_consensus_filter.md). -/

namespace Sys2Proof.Machine

/-- RDC ch (R106): drive the visible control register, 8 bits, in one transfer. -/
def execRdc (ch : Chan) (s : State) : Result := .next (s.drive (.byte (s.chan ch).cvis))

/-- RDD ch (R107): drive the visible display register, 32 bits, in one transfer. -/
def execRdd (ch : Chan) (s : State) : Result := .next (s.drive (.word (s.chan ch).dvis))

end Sys2Proof.Machine
end

