-- ==== Sys2Proof/Machine/Dispatch.lean ====
section
/-! DEFINITION. The meaning of each operation, one arm a constructor (spec R74). -/

namespace Sys2Proof.Machine

def exec (i : Instr) (s : State) : Host.Outcome State Fault Refusal :=
  match i with
  | .clk d => Sys2Proof.Machine.execClk d s
  | .cs c l => Sys2Proof.Machine.execCs c l s
  | .rdc ch => Sys2Proof.Machine.execRdc ch s
  | .rdd ch => Sys2Proof.Machine.execRdd ch s
  | .dbankH n => Sys2Proof.Machine.execDbankH n s
  | .dbankS n => Sys2Proof.Machine.execDbankS n s
  | .ddisp ch => Sys2Proof.Machine.execDdisp ch s
  | .isoff ch => Sys2Proof.Machine.execIsoff ch s
  | .ftime => Sys2Proof.Machine.execFtime s
  | .fstate => Sys2Proof.Machine.execFstate s

end Sys2Proof.Machine
end

