-- ==== Sys2Proof/Decode.lean ====
section
/-! DEFINITION. The event-word encoding (spec 30_encoding.md): the decoder, total on every 8-bit word and rejecting by
name, and the encoder. -/

namespace Sys2Proof

/-- The bits of `w` outside the operation's free bits: `word & mask` (R75). -/
def maskedIs (w mask pattern : Byte) : Bool := (w &&& mask) == pattern

/-- Bit 0 of an event word: the fields `d`, `l` and `ch` (R71). -/
def bit0 (w : Byte) : Bit := w.extractLsb' 0 1

/-- Bit 1 of an event word: the field `c` (R71). -/
def bit1 (w : Byte) : Bit := w.extractLsb' 1 1

/-- Bits 3:0 of an event word: the field `n` (R71). -/
def lowNibble (w : Byte) : Nibble := w.extractLsb' 0 4

/-- Accept `i` if the reserved bits of `arg` are 0, that is if `w & mask` is the row's match (R75, R79). -/
def acceptIf (w mask pattern : Byte) (i : Instr) : Except Reject Instr :=
  if maskedIs w mask pattern then .ok i else .error .reservedArg

/-- The decoder of R74, R75 and R79: `op` selects the row, the row's mask and match accept the word. -/
def decode (w : Byte) : Except Reject Instr :=
  match (w.extractLsb' 4 4).toNat with
  | 0x1 => acceptIf w 0xFE 0x10 (.clk (bit0 w))
  | 0x2 => acceptIf w 0xFC 0x20 (.cs (Chan.ofBit (bit1 w)) (bit0 w))
  | 0x3 => acceptIf w 0xFE 0x30 (.rdc (Chan.ofBit (bit0 w)))
  | 0x4 => acceptIf w 0xFE 0x40 (.rdd (Chan.ofBit (bit0 w)))
  | 0x5 => acceptIf w 0xF0 0x50 (.dbankH (lowNibble w))
  | 0x6 => acceptIf w 0xF0 0x60 (.dbankS (lowNibble w))
  | 0x7 => acceptIf w 0xFE 0x70 (.ddisp (Chan.ofBit (bit0 w)))
  | 0x8 => acceptIf w 0xFE 0x80 (.isoff (Chan.ofBit (bit0 w)))
  | 0x9 => acceptIf w 0xFF 0x90 .ftime
  | 0xA => acceptIf w 0xFF 0xA0 .fstate
  | _ => .error .reservedOp

/-- The encoder, from the assembler table of R81. -/
def encode : Instr → Byte
  | .clk d => 0x10 + d.setWidth 8
  | .cs c l => 0x20 + 2 * c.bit.setWidth 8 + l.setWidth 8
  | .rdc ch => 0x30 + ch.bit.setWidth 8
  | .rdd ch => 0x40 + ch.bit.setWidth 8
  | .dbankH n => 0x50 + n.setWidth 8
  | .dbankS n => 0x60 + n.setWidth 8
  | .ddisp ch => 0x70 + ch.bit.setWidth 8
  | .isoff ch => 0x80 + ch.bit.setWidth 8
  | .ftime => 0x90
  | .fstate => 0xA0

/-- The event word as R70 and R71 lay it out: `op` in bits 7:4 and each operand at its place in `arg`. -/
def layout (op : Nibble) (fs : List Field) : Byte :=
  fs.foldl (fun w f => w ||| BitVec.ofNat 8 (f.value * 2 ^ f.lo)) (op.setWidth 8 <<< 4)

/-- The instruction that the decoder reads from a word numbered as spec/opcode_table.json numbers it. An event word has
one length, 8 bits (R70); a number that needs more is no event word. -/
def decodeTableWord (nbits w : Nat) : Option Instr :=
  if nbits ≤ 8 ∧ w < 256 then
    match decode (BitVec.ofNat 8 w) with
    | .ok i => some i
    | .error _ => none
  else none

end Sys2Proof
end

