-- ==== Sys2Proof/Machine/Fetch.lean ====
section
/-! DEFINITION. Taking the next event word (spec R6, R21, R80). -/

namespace Sys2Proof.Machine

/-- The state after the oldest pending word is taken: the rest is pending and the index counts it (R21). -/
def State.advance (s : State) (rest : List Byte) : State := { s with pending := rest, index := s.index + 1 }

/-- One step with `run` as the meaning of operations: take the oldest pending word and run its operation to completion
(R6, R59); refuse a reserved word (R80); with no event pending, change nothing (R213, log 2). -/
def stepBy (run : Instr → State → Result) (s : State) : Result :=
  match s.pending with
  | [] => .next s
  | w :: rest =>
    match decode w with
    | .ok i => run i (s.advance rest)
    | .error why => .refused (.reservedEvent w why)

/-- The event source delivers a word that is taken next (R204, R213). -/
def State.deliverFirst (s : State) (w : Byte) : State := { s with pending := w :: s.pending }

/-- The event source delivers words after those still pending (R207). -/
def State.deliver (s : State) (ws : List Byte) : State := { s with pending := s.pending ++ ws }

end Sys2Proof.Machine
end

