-- ==== Sys2Proof/Machine/Step.lean ====
section
/-! DEFINITION. The step of the machine: one event word a step (spec R6). -/

namespace Sys2Proof.Machine

/-- One step of the block (R6). -/
def step : State → Host.Outcome State Fault Refusal := fun s => stepBy exec s

/-- `s` with the event word `w` delivered as the one that the next step takes (log 1). -/
def State.withFetchWord (s : State) (_nbits w : Nat) : State := s.deliverFirst (BitVec.ofNat 8 w)

end Sys2Proof.Machine
end

