-- ==== Sys2Proof/Machine/PseudoOps.lean ====
section
/-! DEFINITION. The pseudo-operations SEL, DESEL, SHIFT and FRAME (spec R82), each a fixed sequence of operations. -/

namespace Sys2Proof.Machine

/-- `SEL c` (R82). -/
def pseudoSel (cfg : Config) (c : Chan) : Instr := .cs c (if cfg.csActiveLow then 0 else 1)

/-- `DESEL c` (R82). -/
def pseudoDesel (cfg : Config) (c : Chan) : Instr := .cs c (if cfg.csActiveLow then 1 else 0)

/-- `SHIFT k, v`: CLK events carrying bits `k-1` down to 0 of `v` (R82). -/
def pseudoShift : Nat → Nat → List Instr
  | 0, _ => []
  | k + 1, v => .clk (BitVec.ofBool (v.testBit k)) :: pseudoShift k v

/-- `FRAME c, k, v` (R82). -/
def pseudoFrame (cfg : Config) (c : Chan) (k v : Nat) : List Instr :=
  pseudoSel cfg c :: (pseudoShift k v ++ [pseudoDesel cfg c])

end Sys2Proof.Machine
end

