-- ==== Sys2Proof/Machine/Assembler.lean ====
section
/-! DEFINITION. The assembler syntax of event words and of the pseudo-operations (spec R81, R82). A program is a list of
lines, taken in order; ';' starts a comment. -/

namespace Sys2Proof.Machine

/-- The value of a digit character in a base up to 16. -/
def digitValue (base : Nat) (c : Char) : Option Nat :=
  let v :=
    if '0' ≤ c ∧ c ≤ '9' then some (c.toNat - '0'.toNat)
    else if 'a' ≤ c ∧ c ≤ 'f' then some (c.toNat - 'a'.toNat + 10)
    else if 'A' ≤ c ∧ c ≤ 'F' then some (c.toNat - 'A'.toNat + 10)
    else none
  v.filter (fun n => decide (n < base))

/-- The value of a string of digits, after the value read so far. -/
def digitsValue (base : Nat) : Nat → List Char → Option Nat
  | n, [] => some n
  | n, c :: cs => (digitValue base c).bind (fun d => digitsValue base (n * base + d) cs)

/-- An operand: decimal or `0x` hexadecimal (R81). -/
def parseNumber : List Char → Option Nat
  | '0' :: 'x' :: c :: cs => digitsValue 16 0 (c :: cs)
  | [] => none
  | c :: cs => digitsValue 10 0 (c :: cs)

/-- Split a line at the spaces and commas, and stop at a comment. `word` is the token read so far, last character first. -/
def tokens : List Char → List Char → List (List Char)
  | word, [] => if word.isEmpty then [] else [word.reverse]
  | word, c :: cs =>
    if c = ';' then (if word.isEmpty then [] else [word.reverse])
    else if c = ' ' ∨ c = ',' then (if word.isEmpty then tokens [] cs else word.reverse :: tokens [] cs)
    else tokens (c :: word) cs

/-- A one-bit operand. -/
def bitOperand (n : Nat) : Option Bit := if n < 2 then some (BitVec.ofNat 1 n) else none

/-- A channel operand: 0 is left, 1 is right. -/
def chanOperand (n : Nat) : Option Chan := (bitOperand n).map Chan.ofBit

/-- A nibble operand. -/
def nibbleOperand (n : Nat) : Option Nibble := if n < 16 then some (BitVec.ofNat 4 n) else none

/-- The operations that a mnemonic and its operands stand for (R81, R82). -/
def assembleTokens (cfg : Config) (mnemonic : List Char) (args : List Nat) : Option (List Instr) :=
  let one (i : Option Instr) : Option (List Instr) := i.map (fun x => [x])
  match args with
  | [] =>
    if mnemonic = "FTIME".toList then some [.ftime]
    else if mnemonic = "FSTATE".toList then some [.fstate]
    else none
  | [a] =>
    if mnemonic = "CLK".toList then one ((bitOperand a).map .clk)
    else if mnemonic = "RDC".toList then one ((chanOperand a).map .rdc)
    else if mnemonic = "RDD".toList then one ((chanOperand a).map .rdd)
    else if mnemonic = "DBANK.H".toList then one ((nibbleOperand a).map .dbankH)
    else if mnemonic = "DBANK.S".toList then one ((nibbleOperand a).map .dbankS)
    else if mnemonic = "DDISP".toList then one ((chanOperand a).map .ddisp)
    else if mnemonic = "ISOFF".toList then one ((chanOperand a).map .isoff)
    else if mnemonic = "SEL".toList then one ((chanOperand a).map (pseudoSel cfg))
    else if mnemonic = "DESEL".toList then one ((chanOperand a).map (pseudoDesel cfg))
    else none
  | [a, b] =>
    if mnemonic = "CS".toList then
      one ((chanOperand a).bind (fun c => (bitOperand b).map (fun l => .cs c l)))
    else if mnemonic = "SHIFT".toList then some (pseudoShift a b)
    else none
  | [a, b, v] =>
    if mnemonic = "FRAME".toList then (chanOperand a).map (fun c => pseudoFrame cfg c b v)
    else none
  | _ => none

/-- The operations of one line; a line with no token has none. -/
def assembleLine (cfg : Config) (line : String) : Option (List Instr) :=
  match tokens [] line.toList with
  | [] => some []
  | m :: args => (args.mapM parseNumber).bind (assembleTokens cfg m)

/-- The event words of a program (R81). -/
def assemble (cfg : Config) (lines : List String) : Option (List Byte) :=
  (lines.mapM (assembleLine cfg)).map (fun iss => iss.flatten.map encode)

end Sys2Proof.Machine
end

