-- ==== Sys2Proof/Machine/Configured.lean ====
section
/-! DEFINITION. The machine under any configuration: "A model takes the configuration as an argument of the step
relation, not as state" (spec R27). With this hardware's configuration it is the machine of Step.lean. -/

namespace Sys2Proof.Machine

/-- The meaning of each operation under a configuration (R7, R27). -/
def execWith (cfg : Config) (i : Instr) (s : State) : Result :=
  match i with
  | .clk d => execClk d s
  | .cs c l => csWith cfg c l s
  | .rdc ch => execRdc ch s
  | .rdd ch => execRdd ch s
  | .dbankH n => dbankHWith cfg n s
  | .dbankS n => dbankSWith cfg n s
  | .ddisp ch => ddispWith cfg ch s
  | .isoff ch => execIsoff ch s
  | .ftime => ftimeWith cfg s
  | .fstate => fstateWith cfg s

/-- One step under a configuration; a configuration that the spec refuses is refused (R122, D23). -/
def stepWith (cfg : Config) (s : State) : Result :=
  match configReject votes cfg with
  | some why => .refused (.badConfig why)
  | none => stepBy (execWith cfg) s

/-- The machine under a configuration. -/
def coreWith (cfg : Config) : Host.Core where
  State := State
  Fault := Fault
  Refusal := Refusal
  step := stepWith cfg
  reset := State.resetWith cfg

end Sys2Proof.Machine
end

