-- ==== Sys2Proof/Machine/EventSource.lean ====
section
/-! DEFINITION. The three event sources (spec R204, R205, R122): which edge of which line makes which event word. The
lines and their handlers are outside the block (R5); the rule for what counts as an event is the spec's. -/

namespace Sys2Proof.Machine

/-- An edge of one of the lines that the block listens to, at the level after any inversion configured outside the block
(R223). -/
inductive LineEdge where
  /-- An edge of the shared clock line, with the level of the data line sampled at it (R72). -/
  | clock (e : Edge) (d : Bit)
  /-- An edge of chip-select line `c`. -/
  | select (c : Chan) (e : Edge)
  deriving DecidableEq, Repr

/-- Does an interrupt attached with this mode react to the edge (R205)? -/
def edgeReacts : EdgeMode → Edge → Bool
  | .rising, .rising => true
  | .rising, .falling => false
  | .falling, .rising => false
  | .falling, .falling => true
  | .anyEdge, _ => true

/-- The level of a line after an edge. -/
def levelAfter : Edge → Bit
  | .rising => 1
  | .falling => 0

/-- The event that an edge makes, if it makes one: the clock is attached on `CLK_EDGE`, each chip select on any edge
(R122, R205). -/
def LineEdge.event (cfg : Config) : LineEdge → Option Instr
  | .clock e d => if edgeReacts cfg.clkEdge e then some (.clk d) else none
  | .select c e => if edgeReacts .anyEdge e then some (.cs c (levelAfter e)) else none

/-- The event words of a sequence of edges, each one event, in order (R205, R207). -/
def eventWords (cfg : Config) (edges : List LineEdge) : List Byte :=
  edges.filterMap (fun e => (e.event cfg).map encode)

end Sys2Proof.Machine
end

