-- ==== Sys2Proof/Machine/Poll.lean ====
section
/-! DEFINITION. The polling host's publishing rule (spec R212, D28). The host and its output sinks are outside the block
(R5, R20): nothing here is part of State, and no step reads it. -/

namespace Sys2Proof.Machine

/-- An output sink: `currentValue()` and the strings published so far, newest first (R212). -/
structure Sink where
  currentValue : Text
  published : List Text
  deriving DecidableEq, Repr

/-- Publish a string only if it differs from the sink's current value (R212, D28). -/
def Sink.offer (k : Sink) (v : Text) : Sink :=
  if v = k.currentValue then k else ⟨v, v :: k.published⟩

/-- The two sinks of the host, for the two strings (R212). -/
structure Sinks where
  time : Sink
  state : Sink
  deriving DecidableEq, Repr

/-- The sinks before the first poll: `SINK_INIT`, nothing published (D28). -/
def Sinks.init : Sinks := ⟨⟨Config.openSinkInit, []⟩, ⟨Config.openSinkInit, []⟩⟩

/-- One polling cycle on the current consensus registers (R212): compute the strings of FTIME and FSTATE and offer each
to its sink. -/
def Sinks.poll (cfg : Config) (s : State) (k : Sinks) : Sinks where
  time := k.time.offer (formatTime cfg s.left.cvis s.left.dvis)
  state := k.state.offer (formatState cfg s.right.cvis s.right.dvis s.left.cvis s.left.dvis)

end Sys2Proof.Machine
end

