-- ==== Sys2Proof/Safety.lean ====
section
/-! DEFINITION. What claims about NOVO-DEC are stated with: the invariant of the consensus filters, the value that a
history of feeds confirms, the frames that a sequence of events spells out, read off the events without the block's
registers, and the agreement of the registers with such a sequence. -/

namespace Sys2Proof.Safety

open Sys2Proof.Machine

/-- The invariant of a consensus filter. While the window fills, `head` counts the pushes, the slots not yet written hold
their reset value and the visible value is the initial one (R104, R105); once the window is full and unanimous, the
visible value is its common value (R104). -/
abbrev FilterInv {n w : Nat} (init : BitVec w) (f : Filter n w) : Prop :=
  (f.ring.size.val < n →
    f.ring.head.val = f.ring.size.val ∧ f.vis = init ∧
      ∀ i : Fin n, f.ring.size.val ≤ i.val → f.ring.slots[i] = 0)
  ∧ (f.ring.full → f.ring.unanimous → ∀ i : Fin n, f.vis = f.ring.slots[i])

/-- The invariant of a channel: that of its two filters. -/
abbrev ChannelInv (cfg : Config) {n : Nat} (x : Channel n) : Prop :=
  FilterInv cfg.ctrlInit x.ctrlFilter ∧ FilterInv cfg.dispInit x.dispFilter

/-- The invariant of the machine: that of its two channels. -/
abbrev StateInv (cfg : Config) (s : State) : Prop :=
  ChannelInv cfg s.left ∧ ChannelInv cfg s.right

/-- The value that a history of feeds shows, newest first: the latest value that `n` feeds in a row agreed on, and the
initial value if there is none (R104, R105, R108). -/
def lastConfirmed {w : Nat} (n : Nat) (init : BitVec w) : List (BitVec w) → BitVec w
  | [] => init
  | v :: older => if (v :: older).take n = List.replicate n v then v else lastConfirmed n init older

/-- The number that bits spell, newest first: the oldest bit is the most significant (R52). -/
def bitsValue : List Bit → Nat
  | [] => 0
  | b :: older => 2 * bitsValue older + b.toNat

/-- The frames of channel `c` that a sequence of events closes, oldest frame first, each with its bits newest first
(R120, R123 under TRANSITION). The second argument holds the bits of the frame that is open, if one is. -/
def closedFrames (activeLow : Bool) (c : Chan) : Option (List Bit) → List Instr → List (List Bit)
  | _, [] => []
  | bits, i :: is =>
    match i with
    | .clk d => closedFrames activeLow c (bits.map (fun bs => d :: bs)) is
    | .cs c' l =>
      if c' = c then
        match bits, selectedSense activeLow l with
        | none, true => closedFrames activeLow c (some []) is
        | none, false => closedFrames activeLow c none is
        | some bs, true => closedFrames activeLow c (some bs) is
        | some bs, false => bs :: closedFrames activeLow c none is
      else closedFrames activeLow c bits is
    | .rdc _ => closedFrames activeLow c bits is
    | .rdd _ => closedFrames activeLow c bits is
    | .dbankH _ => closedFrames activeLow c bits is
    | .dbankS _ => closedFrames activeLow c bits is
    | .ddisp _ => closedFrames activeLow c bits is
    | .isoff _ => closedFrames activeLow c bits is
    | .ftime => closedFrames activeLow c bits is
    | .fstate => closedFrames activeLow c bits is

/-- The frame of channel `c` that is open after one more event, its bits newest first, if one is (R120, R123 under
TRANSITION): the clock adds a bit to an open frame, selecting opens one or leaves the open one, and deselecting closes it. -/
def frameAfter (activeLow : Bool) (c : Chan) (bits : Option (List Bit)) : Instr → Option (List Bit)
  | .clk d => bits.map (fun bs => d :: bs)
  | .cs c' l => if c' = c then (if selectedSense activeLow l then some (bits.getD []) else none) else bits
  | .rdc _ => bits
  | .rdd _ => bits
  | .dbankH _ => bits
  | .dbankS _ => bits
  | .ddisp _ => bits
  | .isoff _ => bits
  | .ftime => bits
  | .fstate => bits

/-- The frame of channel `c` that is open after a sequence of events from reset. -/
def openFrame (activeLow : Bool) (c : Chan) (is : List Instr) : Option (List Bit) :=
  is.foldl (frameAfter activeLow c) none

/-- The control value of a closed frame, if it is a control frame: its length is 8 modulo 256 (R125, R130). -/
def controlFeed (bits : List Bit) : Option Byte :=
  if bits.length % 256 = 8 then some (BitVec.ofNat 8 (bitsValue bits)) else none

/-- The display value of a closed frame, if it is a display frame: its length is 24 modulo 256 (R126, R130). -/
def displayFeed (mask : Word) (bits : List Bit) : Option Word :=
  if bits.length % 256 = 24 then some (BitVec.ofNat 32 (bitsValue bits) &&& mask) else none

/-- A ring and a visible value agree with a history of feeds, oldest first: the ring holds their pushes (R100), and what
shows is the latest value that a whole window of them agreed on (R104, R105). -/
abbrev FollowsFeeds {n w : Nat} (h : 0 < n) (init : BitVec w) (f : Filter n w) (vs : List (BitVec w)) : Prop :=
  f.ring = vs.foldl RingBuffer.push (RingBuffer.empty n w h) ∧ f.vis = lastConfirmed n init vs.reverse

/-- The registers of channel `c` agree with the events taken since reset: `sel` with whether a frame is open, `acc` and
`cnt` of an open frame with its bits (R121), and the two filters with the closed frames (R124 to R127). -/
abbrev ChannelFollows (cfg : Config) (c : Chan) (is : List Instr) (x : Channel votes) : Prop :=
  x.sel = (openFrame cfg.csActiveLow c is).isSome
  ∧ (∀ bits ∈ openFrame cfg.csActiveLow c is,
      x.acc = BitVec.ofNat 32 (bitsValue bits) ∧ x.cnt = BitVec.ofNat 8 bits.length)
  ∧ FollowsFeeds (by decide) cfg.ctrlInit x.ctrlFilter
      ((closedFrames cfg.csActiveLow c none is).filterMap controlFeed)
  ∧ FollowsFeeds (by decide) cfg.dispInit x.dispFilter
      ((closedFrames cfg.csActiveLow c none is).filterMap (displayFeed cfg.dispFeedMask))

/-- The state agrees with the events taken since reset: both channels do, and the index counts them. -/
abbrev FollowsEvents (cfg : Config) (is : List Instr) (s : State) : Prop :=
  s.index = is.length ∧ ChannelFollows cfg .left is s.left ∧ ChannelFollows cfg .right is s.right

/-- No string is published twice in a row (R212). -/
def noNeighboursEqual : List Text → Prop
  | [] => True
  | [_] => True
  | a :: b :: rest => a ≠ b ∧ noNeighboursEqual (b :: rest)

end Sys2Proof.Safety
end

