-- ==== Sys2Proof/Certificates/Slice0/Obligations.lean ====
section
/-! DEFINITION. The statements about NOVO-DEC, from the numbered rules of spec/. The block has no memory, no program
counter, no special register and no exception register (spec R21, R26, R32, R50, R203), so a frame speaks of the two
channels, the output port and the list of pending words. -/

open Sys2Proof Sys2Proof.Machine Sys2Proof.Safety

/-! ### Encoding -/

/-- Encoder, decoder and the field layout of R70 and R71 agree on every operation and every word. -/
def Obligations.DecodeAndEncodeAgree : Prop :=
  (∀ i : Instr, decode (encode i) = .ok i)
  ∧ (∀ (w : Byte) (i : Instr), decode w = .ok i → encode i = w)
  ∧ (∀ i : Instr, encode i = layout i.op i.fields ∧ i.wellFormed = true)

/-- The decoder refuses exactly the words that section 3 of 30_encoding.md lists, and 48 words are defined. -/
def Obligations.ReservedWordsAreRejected : Prop :=
  (∀ w : Byte, (∃ why, decode w = .error why) ↔ reservedWord w = true)
  ∧ ((List.range 256).filter (fun k => (decode (BitVec.ofNat 8 k)).isOk)).length = 48

/-- Words written out from the encoding tables, as the table of 95_test_vectors.md section 2.1 has them. -/
def Obligations.SampleWordsDecode : Prop :=
  decode 0b00010001 = .ok (.clk 1)
  ∧ decode 0b00100011 = .ok (.cs .right 1)
  ∧ decode 0b00110001 = .ok (.rdc .right)
  ∧ decode 0b01000000 = .ok (.rdd .left)
  ∧ decode 0b01010101 = .ok (.dbankH 5)
  ∧ decode 0b01101111 = .ok (.dbankS 0xF)
  ∧ decode 0b01110001 = .ok (.ddisp .right)
  ∧ decode 0b10000000 = .ok (.isoff .left)
  ∧ decode 0b10010000 = .ok .ftime
  ∧ decode 0b10100000 = .ok .fstate
  ∧ decode 0b00010010 = .error .reservedArg
  ∧ decode 0b11000011 = .error .reservedOp

/-! ### The step -/

/-- A step takes the oldest pending word and runs its operation (R6; the pending list is the model's bookkeeping,
log 1). -/
def Obligations.StepRunsTheDecodedEvent : Prop :=
  ∀ (s : State) (w : Byte) (rest : List Byte) (i : Instr),
    s.pending = w :: rest → decode w = .ok i →
      step s = exec i { s with pending := rest, index := s.index + 1 }

/-- With no event pending a step changes nothing (the model's reading, log 2). -/
def Obligations.StepWithoutEventChangesNothing : Prop :=
  ∀ s : State, s.pending = [] → step s = .next s

/-- Every operation completes, and a step stops only at a reserved word (R200). -/
def Obligations.OnlyReservedWordsStop : Prop :=
  (∀ (i : Instr) (s : State), ∃ t, exec i s = .next t)
  ∧ ∀ s : State,
      (∃ t, step s = .next t)
      ∨ ∃ w rest why, s.pending = w :: rest ∧ decode w = .error why
          ∧ step s = .refused (.reservedEvent w why)

/-- A reserved word refuses the run from there on, whatever words follow it (30_encoding.md section 3, D26; that the mark
is the refused outcome is the model's choice, log 10). -/
def Obligations.RefusalLastsForTheRun : Prop :=
  ∀ (s : State) (before after : List Byte) (w : Byte) (why : Reject) (k : Nat),
    s.pending = before ++ w :: after →
    (∀ v ∈ before, reservedWord v = false) →
    decode w = .error why →
    before.length < k →
      Host.Core.run core k s = .refused (.reservedEvent w why)

/-! ### Input events -/

/-- CLK (R121): both channels take one sample; a selected channel shifts it in and counts. -/
def Obligations.ClkShiftsIntoSelectedChannels : Prop :=
  (∀ (d : Bit) (s : State),
    exec (.clk d) s = .next
      { s with
        left := if s.left.sel then
            { s.left with acc := (s.left.acc <<< 1) ||| d.setWidth 32, cnt := s.left.cnt + 1 } else s.left
        right := if s.right.sel then
            { s.right with acc := (s.right.acc <<< 1) ||| d.setWidth 32, cnt := s.right.cnt + 1 } else s.right
        out := none })
  ∧ (∀ w : Byte, w &&& 0xFE = 0x10 → decode w = .ok (.clk (w.extractLsb' 0 1)))
  ∧ (∀ w : Byte, w.extractLsb' 4 4 = 0x1 → w.extractLsb' 1 3 ≠ 0 → ∃ why, decode w = .error why)

/-- CS under any configuration (R123): the selected sense, what a non-transition does, selecting and deselecting. -/
def Obligations.CsActsOnItsChannel : Prop :=
  (∀ (cfg : Config) (c : Chan) (l : Bit) (s : State) (sense : Bool),
    sense = (if cfg.csActiveLow then l == 0 else l == 1) →
      (cfg.csMode = .transition → sense = (s.chan c).sel →
        execWith cfg (.cs c l) s = .next { s with out := none })
      ∧ (¬ (cfg.csMode = .transition ∧ sense = (s.chan c).sel) → sense = true →
        execWith cfg (.cs c l) s = .next
          { s.setChan c { s.chan c with sel := true, acc := 0, cnt := 0 } with out := none })
      ∧ (¬ (cfg.csMode = .transition ∧ sense = (s.chan c).sel) → sense = false →
        execWith cfg (.cs c l) s = .next
          { s.setChan c ({ s.chan c with sel := false }.latch cfg.dispFeedMask) with out := none }))
  ∧ (∀ (c : Chan) (l : Bit) (s : State), exec (.cs c l) s = execWith Config.hardware (.cs c l) s)
  ∧ (∀ w : Byte, w &&& 0xFC = 0x20 →
      decode w = .ok (.cs (if w.getLsbD 1 then .right else .left) (w.extractLsb' 0 1)))
  ∧ (∀ w : Byte, w.extractLsb' 4 4 = 0x2 → w.extractLsb' 2 2 ≠ 0 → ∃ why, decode w = .error why)

/-- CS on this hardware, whose chip selects are active low: every case completes. Selecting clears the accumulator and
the counter; a repeated level changes nothing; a deselect latches. -/
def Obligations.CsCompletesOnThisHardware : Prop :=
  ∀ (c : Chan) (s : State),
    ((s.chan c).sel = true → exec (.cs c 0) s = .next { s with out := none })
    ∧ ((s.chan c).sel = false → exec (.cs c 1) s = .next { s with out := none })
    ∧ ((s.chan c).sel = false → exec (.cs c 0) s = .next
        { s.setChan c { s.chan c with sel := true, acc := 0, cnt := 0 } with out := none })
    ∧ ((s.chan c).sel = true → exec (.cs c 1) s = .next
        { s.setChan c ({ s.chan c with sel := false }.latch 0xFFFFFFFF) with out := none })

/-- The latch (R124, R125, R127), for any capacity and any feed mask: a count of 8 feeds the low 8 bits of the
accumulator into the control filter, a count of 24 feeds the masked accumulator into the display filter, and any other
count feeds nothing: of a glitch only `sel` becomes 0. -/
def Obligations.LatchFeedsByCount : Prop :=
  (∀ (cfg : Config) (c : Chan) (l : Bit) (s : State),
    (s.chan c).sel = true → selectedSense cfg.csActiveLow l = false → (s.chan c).cnt ≠ 8 → (s.chan c).cnt ≠ 24 →
      execWith cfg (.cs c l) s = .next { s.setChan c { s.chan c with sel := false } with out := none })
  ∧ ∀ (n : Nat) (mask : Word) (x : Channel n),
    (x.cnt = 8 → x.latch mask =
      { x with cring := (Filter.feed ⟨x.cring, x.cvis⟩ (x.acc.setWidth 8)).ring
               cvis := (Filter.feed ⟨x.cring, x.cvis⟩ (x.acc.setWidth 8)).vis })
    ∧ (x.cnt = 24 → x.latch mask =
      { x with dring := (Filter.feed ⟨x.dring, x.dvis⟩ (x.acc &&& mask)).ring
               dvis := (Filter.feed ⟨x.dring, x.dvis⟩ (x.acc &&& mask)).vis })
    ∧ (x.cnt ≠ 8 → x.cnt ≠ 24 → x.latch mask = x)

/-- What the input events leave alone: CLK writes `acc` and `cnt` of selected channels only, CS writes its own channel
only and never a filter that its count does not name; neither touches the pending words or the index. -/
def Obligations.InputEventFrame : Prop :=
  (∀ (d : Bit) (s t : State), exec (.clk d) s = .next t →
    t.pending = s.pending ∧ t.index = s.index ∧ t.out = none
    ∧ ∀ c : Chan,
        t.chan c = { s.chan c with acc := (t.chan c).acc, cnt := (t.chan c).cnt }
        ∧ ((s.chan c).sel = false → t.chan c = s.chan c))
  ∧ (∀ (c : Chan) (l : Bit) (s t : State), exec (.cs c l) s = .next t →
    t.pending = s.pending ∧ t.index = s.index ∧ t.out = none
    ∧ t.chan c.other = s.chan c.other
    ∧ ((s.chan c).cnt ≠ 8 → (t.chan c).cring = (s.chan c).cring ∧ (t.chan c).cvis = (s.chan c).cvis)
    ∧ ((s.chan c).cnt ≠ 24 → (t.chan c).dring = (s.chan c).dring ∧ (t.chan c).dvis = (s.chan c).dvis)
    ∧ (l = 1 → (t.chan c).acc = (s.chan c).acc ∧ (t.chan c).cnt = (s.chan c).cnt)
    ∧ (l = 0 → t.chan c = { s.chan c with
        sel := (t.chan c).sel, acc := (t.chan c).acc, cnt := (t.chan c).cnt }))

/-- Only a deselect of a channel changes one of its rings or visible values, and only with a count of 8 or 24 (R128),
under any configuration. -/
def Obligations.RegistersChangeOnlyAtADeselect : Prop :=
  ∀ (cfg : Config) (i : Instr) (s t : State) (c : Chan),
    execWith cfg i s = .next t →
    ((t.chan c).cring ≠ (s.chan c).cring ∨ (t.chan c).cvis ≠ (s.chan c).cvis
      ∨ (t.chan c).dring ≠ (s.chan c).dring ∨ (t.chan c).dvis ≠ (s.chan c).dvis) →
      ∃ l, i = .cs c l ∧ selectedSense cfg.csActiveLow l = false
        ∧ ((s.chan c).cnt = 8 ∨ (s.chan c).cnt = 24)
        ∧ (cfg.csMode = .transition → (s.chan c).sel = true)

/-- The polarity is one conversion of the level: a bus of the other polarity with inverted chip-select levels makes the
same machine (30_encoding.md section 1, D3). -/
def Obligations.PolarityInvertsTheLevel : Prop :=
  ∀ (cfg : Config) (c : Chan) (l : Bit) (s : State),
    execWith { cfg with csActiveLow := !cfg.csActiveLow } (.cs c (~~~l)) s = execWith cfg (.cs c l) s

/-- With `CS_MODE` = LEVEL, repeating the deselect level feeds the same frame again, so one frame of 8 bits confirms
itself in three deselect events (41_chip_decoder.md section 4, D4). -/
def Obligations.LevelModeVotesAgain : Prop :=
  ∀ (cfg : Config) (c : Chan) (l : Bit) (s : State),
    cfg.csMode = .level → selectedSense cfg.csActiveLow l = false → (s.chan c).cnt = 8 →
      ∃ t1 t2 t3,
        execWith cfg (.cs c l) s = .next t1 ∧ execWith cfg (.cs c l) t1 = .next t2
        ∧ execWith cfg (.cs c l) t2 = .next t3
        ∧ (t3.chan c).cvis = (s.chan c).acc.setWidth 8
        ∧ (t3.chan c).dring = (s.chan c).dring ∧ (t3.chan c).dvis = (s.chan c).dvis

/-- Chip-select events of the two channels commute: either order of two simultaneous ones leaves the same state (the
order is open, 60_exceptions.md section 3). -/
def Obligations.SelectEventsOfTwoChannelsCommute : Prop :=
  ∀ (cfg : Config) (l m : Bit) (s : State),
    ∃ t u v, execWith cfg (.cs .left l) s = .next t ∧ execWith cfg (.cs .right m) t = .next v
      ∧ execWith cfg (.cs .right m) s = .next u ∧ execWith cfg (.cs .left l) u = .next v

/-- A channel's registers after a step depend on that channel's registers and the event alone: the other channel cannot
influence them (10_state.md section 4). -/
def Obligations.ChannelsDoNotInterfere : Prop :=
  ∀ (s s' t : State) (c : Chan),
    s.chan c = s'.chan c → s.pending = s'.pending → step s = .next t →
      ∃ t', step s' = .next t' ∧ t.chan c = t'.chan c ∧ t.pending = t'.pending

/-- Words delivered before or after a step that takes an earlier word make the same run: the pending list holds what the
platform has delivered so far, and events are taken in order (60_exceptions.md section 3; the list is the model's
bookkeeping, log 1). -/
def Obligations.LaterWordsDoNotAffectAStep : Prop :=
  ∀ (s t : State) (later : List Byte),
    s.pending ≠ [] → step s = .next t → step (s.deliver later) = .next (t.deliver later)

/-! ### Rings and filters -/

/-- Push and feed (R100, R104), for any capacity and width. -/
def Obligations.FeedShowsAUnanimousFullWindow : Prop :=
  ∀ (n w : Nat) (f : Filter n w) (v : BitVec w),
    (f.ring.push v).slots = f.ring.slots.set f.ring.head.val v f.ring.head.isLt
    ∧ (f.ring.push v).head.val = (f.ring.head.val + 1) % n
    ∧ (f.ring.push v).size.val = min (f.ring.size.val + 1) n
    ∧ (f.feed v).ring = f.ring.push v
    ∧ ((f.ring.push v).size.val = n →
        (∀ i j : Fin n, (f.ring.push v).slots[i] = (f.ring.push v).slots[j]) → (f.feed v).vis = v)
    ∧ (¬ ((f.ring.push v).size.val = n
        ∧ ∀ i j : Fin n, (f.ring.push v).slots[i] = (f.ring.push v).slots[j]) → (f.feed v).vis = f.vis)

/-- After pushes from reset (R101), the size counts them up to the capacity and the slots hold the latest ones: the
newest just below `head`, older ones below it. -/
def Obligations.RingHoldsTheLatestPushes : Prop :=
  ∀ (n w : Nat) (h : 0 < n) (vs : List (BitVec w)),
    (vs.foldl RingBuffer.push (RingBuffer.empty n w h)).size.val = min vs.length n
    ∧ ∀ j : Nat, j < min vs.length n →
        (vs.foldl RingBuffer.push (RingBuffer.empty n w h)).slots[
          ((vs.foldl RingBuffer.push (RingBuffer.empty n w h)).head.val + (n - 1 - j)) % n]?
        = vs.reverse[j]?

/-- The filter of ring slots, head and size shows, after any feeds from reset, the latest value that `n` feeds in a row
agreed on, and the initial value before there is one: the ring is one representation of the window (D29, section 2 of
40_consensus_filter.md). -/
def Obligations.FilterShowsTheLastConfirmedValue : Prop :=
  ∀ (n w : Nat) (h : 0 < n) (init : BitVec w) (vs : List (BitVec w)),
    (vs.foldl Filter.feed (Filter.empty n w h init)).vis = lastConfirmed n init vs.reverse

/-- Debounce latency: fewer than `n` feeds of a value that no slot holds leave the visible value, and `n` feeds of a
value make it visible, from any state of the filter (40_consensus_filter.md section 3). -/
def Obligations.DebounceTakesAFullWindow : Prop :=
  ∀ (n w : Nat) (f : Filter n w) (b : BitVec w),
    (∀ k : Nat, k < n → (∀ i : Fin n, f.ring.slots[i] ≠ b) →
      ((List.replicate k b).foldl Filter.feed f).vis = f.vis)
    ∧ ((List.replicate n b).foldl Filter.feed f).vis = b

/-- A visible register changes only to the common value of a full window, which is the value just latched
(40_consensus_filter.md section 2). -/
def Obligations.AChangedRegisterIsConfirmed : Prop :=
  ∀ (i : Instr) (s t : State) (c : Chan), exec i s = .next t →
    ((t.chan c).cvis ≠ (s.chan c).cvis →
      (t.chan c).cvis = (s.chan c).acc.setWidth 8 ∧ (t.chan c).cring.size.val = votes
      ∧ ∀ j : Fin votes, (t.chan c).cring.slots[j] = (t.chan c).cvis)
    ∧ ((t.chan c).dvis ≠ (s.chan c).dvis →
      (t.chan c).dvis = (s.chan c).acc ∧ (t.chan c).dring.size.val = votes
      ∧ ∀ j : Fin votes, (t.chan c).dring.slots[j] = (t.chan c).dvis)

/-- Nothing clears a window: each operation leaves each ring alone or pushes one value into it, and a ring's size never
falls (40_consensus_filter.md section 1). -/
def Obligations.NothingClearsAWindow : Prop :=
  ∀ (cfg : Config) (i : Instr) (s t : State) (c : Chan), execWith cfg i s = .next t →
    ((t.chan c).cring = (s.chan c).cring ∨ ∃ v, (t.chan c).cring = (s.chan c).cring.push v)
    ∧ ((t.chan c).dring = (s.chan c).dring ∨ ∃ v, (t.chan c).dring = (s.chan c).dring.push v)
    ∧ (s.chan c).cring.size.val ≤ (t.chan c).cring.size.val
    ∧ (s.chan c).dring.size.val ≤ (t.chan c).dring.size.val

/-! ### Whole runs -/

/-- The filters' invariant is kept by every step. -/
def Obligations.StepKeepsTheFilterInvariant : Prop :=
  ∀ s t : State, StateInv Config.hardware s → step s = .next t → StateInv Config.hardware t

/-- The filters' invariant holds right after reset, under any configuration's initial values. -/
def Obligations.ResetMeetsTheFilterInvariant : Prop :=
  StateInv Config.hardware State.reset ∧ ∀ cfg : Config, StateInv cfg (State.resetWith cfg)

/-- Bits clocked into a selected channel and then a deselect: the frame latches by its length modulo 256, with the last
8 or the last 32 bits (41_chip_decoder.md section 4, D7). -/
def Obligations.FrameOfAnyLengthLatchesModulo256 : Prop :=
  ∀ (s : State) (c : Chan) (bits : List Bit) (rest : List Byte),
    (s.chan c).sel = true → (s.chan c).acc = 0 → (s.chan c).cnt = 0 →
    s.pending = bits.map (fun d => encode (.clk d)) ++ encode (.cs c 1) :: rest →
      ∃ t : State, Host.Core.run core (bits.length + 1) s = .next t
        ∧ t.pending = rest ∧ (t.chan c).sel = false
        ∧ (t.chan c).cnt = BitVec.ofNat 8 bits.length
        ∧ (t.chan c).acc = BitVec.ofNat 32 (bitsValue bits.reverse)
        ∧ (t.chan c).ctrlFilter =
            (if bits.length % 256 = 8 then (s.chan c).ctrlFilter.feed (BitVec.ofNat 8 (bitsValue bits.reverse))
             else (s.chan c).ctrlFilter)
        ∧ (t.chan c).dispFilter =
            (if bits.length % 256 = 24 then (s.chan c).dispFilter.feed (BitVec.ofNat 32 (bitsValue bits.reverse))
             else (s.chan c).dispFilter)

/-- A clean frame: select, `k` bits of `v` with the highest first, deselect (41_chip_decoder.md section 4). The other
channel, if it is not selected, is not touched. -/
def Obligations.CleanFrameIsLatched : Prop :=
  ∀ (s : State) (c : Chan) (k v : Nat) (rest : List Byte),
    (s.chan c).sel = false → v < 2 ^ k →
    s.pending = (pseudoFrame Config.hardware c k v).map encode ++ rest →
      ∃ t : State, Host.Core.run core (k + 2) s = .next t
        ∧ t.pending = rest ∧ t.index = s.index + (k + 2)
        ∧ (t.chan c).sel = false
        ∧ (t.chan c).cnt = BitVec.ofNat 8 k
        ∧ (t.chan c).acc = BitVec.ofNat 32 v
        ∧ (k = 8 → (t.chan c).ctrlFilter = (s.chan c).ctrlFilter.feed (BitVec.ofNat 8 v)
            ∧ (t.chan c).dispFilter = (s.chan c).dispFilter)
        ∧ (k = 24 → (t.chan c).dispFilter = (s.chan c).dispFilter.feed (BitVec.ofNat 32 v)
            ∧ (t.chan c).ctrlFilter = (s.chan c).ctrlFilter)
        ∧ (k < 256 → k ≠ 8 → k ≠ 24 → (t.chan c).ctrlFilter = (s.chan c).ctrlFilter
            ∧ (t.chan c).dispFilter = (s.chan c).dispFilter)
        ∧ ((s.chan c.other).sel = false → t.chan c.other = s.chan c.other)

/-- After any sequence of events from reset, each visible register is the latest value that `VOTES` frames in a
row agreed on, and its initial value before that. The frames are read off the events alone. For every configuration with
`CS_MODE` = TRANSITION that the spec does not refuse (20_memory.md section 4; the parts D4, D6 and D8 are parameters). -/
def Obligations.VisibleRegistersFollowTheFrames : Prop :=
  ∀ (cfg : Config) (is : List Instr),
    configReject votes cfg = none → cfg.csMode = .transition →
      ∃ t : State, Host.Core.run (coreWith cfg) is.length
          { State.resetWith cfg with pending := is.map encode } = .next t
        ∧ t.pending = []
        ∧ ∀ c : Chan,
            (t.chan c).cvis = lastConfirmed votes cfg.ctrlInit
              ((closedFrames cfg.csActiveLow c none is).filterMap controlFeed).reverse
            ∧ (t.chan c).dvis = lastConfirmed votes cfg.dispInit
              ((closedFrames cfg.csActiveLow c none is).filterMap (displayFeed cfg.dispFeedMask)).reverse

/-- Every step keeps the registers agreeing with the events taken so far: `sel` with the open frame, `acc` and `cnt` with
its bits, the rings and the visible values with the closed frames (20_memory.md section 4, 40_consensus_filter.md sections
1 and 2, 41_chip_decoder.md sections 3 and 4). For every configuration with `CS_MODE` = TRANSITION that the spec does not
refuse, and for this hardware's step. The counter's wrap (D7, log 13), the feed mask (D8) and the initial values (D6,
log 6) are the spec's choices or parameters; the index and the pending list are the model's bookkeeping (log 1). -/
def Obligations.StepKeepsTheRegistersOnTheEvents : Prop :=
  (∀ (cfg : Config) (is : List Instr) (s t : State),
    configReject votes cfg = none → cfg.csMode = .transition →
    FollowsEvents cfg is s → stepWith cfg s = .next t →
      (s.pending = [] ∧ FollowsEvents cfg is t)
      ∨ ∃ (i : Instr) (rest : List Byte), s.pending = encode i :: rest ∧ t.pending = rest
          ∧ FollowsEvents cfg (is ++ [i]) t)
  ∧ ∀ (is : List Instr) (s t : State),
    FollowsEvents Config.hardware is s → step s = .next t →
      (s.pending = [] ∧ FollowsEvents Config.hardware is t)
      ∨ ∃ (i : Instr) (rest : List Byte), s.pending = encode i :: rest ∧ t.pending = rest
          ∧ FollowsEvents Config.hardware (is ++ [i]) t

/-- Right after reset the registers agree with the empty list of events (10_state.md section 5; the reset values are the
spec's own choice, D5, D6, log 5, log 6). -/
def Obligations.ResetAgreesWithNoEvents : Prop :=
  FollowsEvents Config.hardware [] State.reset ∧ ∀ cfg : Config, FollowsEvents cfg [] (State.resetWith cfg)

/-! ### Queries -/

/-- RDC (R106). -/
def Obligations.RdcReadsTheControlRegister : Prop :=
  (∀ (ch : Chan) (s : State), exec (.rdc ch) s = .next { s with out := some (.byte (s.chan ch).cvis) })
  ∧ (∀ w : Byte, w &&& 0xFE = 0x30 → decode w = .ok (.rdc (if w.getLsbD 0 then .right else .left)))
  ∧ (∀ w : Byte, w.extractLsb' 4 4 = 0x3 → w.extractLsb' 1 3 ≠ 0 → ∃ why, decode w = .error why)
  ∧ (∀ (s : State) (ch : Chan), StateInv Config.hardware s → (s.chan ch).cring.size.val < votes →
      exec (.rdc ch) s = .next { s with out := some (.byte Config.hardware.ctrlInit) })

/-- RDD (R107). -/
def Obligations.RddReadsTheDisplayRegister : Prop :=
  (∀ (ch : Chan) (s : State), exec (.rdd ch) s = .next { s with out := some (.word (s.chan ch).dvis) })
  ∧ (∀ w : Byte, w &&& 0xFE = 0x40 → decode w = .ok (.rdd (if w.getLsbD 0 then .right else .left)))
  ∧ (∀ w : Byte, w.extractLsb' 4 4 = 0x4 → w.extractLsb' 1 3 ≠ 0 → ∃ why, decode w = .error why)
  ∧ (∀ (s : State) (ch : Chan), StateInv Config.hardware s → (s.chan ch).dring.size.val < votes →
      exec (.rdd ch) s = .next { s with out := some (.word Config.hardware.dispInit) })

/-- DBANK.H (R153) and its table (R151). -/
def Obligations.DbankHLooksUpTheHexTable : Prop :=
  (∀ (n : Nibble) (s : State), exec (.dbankH n) s = .next { s with out := some (.char (decodeBank Config.hardware n false)) })
  ∧ (∀ (cfg : Config) (n : Nibble),
      some (decodeBank cfg n false)
        = [(0x30 : Byte), 0x31, 0x32, 0x33, 0x34, 0x35, 0x36, 0x37, 0x38, 0x39, 0x41, 0x42, 0x43, 0x44, 0x45, 0x46][n.toNat]?)
  ∧ (∀ w : Byte, w &&& 0xF0 = 0x50 → decode w = .ok (.dbankH (w.extractLsb' 0 4)))

/-- DBANK.S and the default special table, which is the spec's reading of the source (42_register_decoder.md section 1,
D13; log 9). -/
def Obligations.DbankSLooksUpTheSpecialTable : Prop :=
  (∀ (n : Nibble) (s : State), exec (.dbankS n) s = .next { s with out := some (.char (decodeBank Config.hardware n true)) })
  ∧ (∀ n : Nibble,
      some (decodeBank Config.hardware n true)
        = [(0x20 : Byte), 0x63, 0x48, 0x68, 0x4A, 0x4C, 0x6E, 0x6F, 0x50, 0x72, 0x55, 0x75, 0x79, 0x2D, 0x3D, 0x6F][n.toNat]?)
  ∧ (∀ w : Byte, w &&& 0xF0 = 0x60 → decode w = .ok (.dbankS (w.extractLsb' 0 4)))

/-- `decodeBank` is one table or the other, and masks a wider input to 4 bits (R155). -/
def Obligations.DecodeBankMasksItsInput : Prop :=
  ∀ (cfg : Config) (w : Nat) (v : BitVec w) (n : Nibble),
    decodeBank cfg n true = cfg.specialTable n ∧ decodeBank cfg n false = hexTable n
    ∧ decodeBankOf cfg v true = cfg.specialTable (BitVec.ofNat 4 (v.toNat % 16))
    ∧ decodeBankOf cfg v false = hexTable (BitVec.ofNat 4 (v.toNat % 16))

/-- DDISP: it drives the decoded characters (R157), and bits 31:12 of the display register do not matter. -/
def Obligations.DdispDecodesTheDisplay : Prop :=
  (∀ (ch : Chan) (s : State),
    exec (.ddisp ch) s = .next { s with out := some (.chars (decodeDisplay Config.hardware (s.chan ch).dvis (s.chan ch).cvis)) })
  ∧ (∀ (cfg : Config) (disp disp' : Word) (ctrl : Byte), disp &&& 0xFFF = disp' &&& 0xFFF →
      decodeDisplay cfg disp ctrl = decodeDisplay cfg disp' ctrl)
  ∧ (∀ w : Byte, w &&& 0xFE = 0x70 → decode w = .ok (.ddisp (if w.getLsbD 0 then .right else .left)))

/-- `decodeDisplay` and the special flags: bank `b` is bits `4b+3 : 4b`, special when the masked control register is the
bank's target. The bank order is the spec's choice (42_register_decoder.md section 3, D12, D14; log 13). -/
def Obligations.EachBankIsDecodedByItsOwnFlag : Prop :=
  ∀ (cfg : Config) (disp : Word) (ctrl : Byte),
    (decodeDisplay cfg disp ctrl).c0
      = decodeBank cfg (BitVec.ofNat 4 disp.toNat) (decide (ctrl &&& cfg.specialMask 0 = cfg.specialValue 0))
    ∧ (decodeDisplay cfg disp ctrl).c1
      = decodeBank cfg (BitVec.ofNat 4 (disp.toNat / 16)) (decide (ctrl &&& cfg.specialMask 1 = cfg.specialValue 1))
    ∧ (decodeDisplay cfg disp ctrl).c2
      = decodeBank cfg (BitVec.ofNat 4 (disp.toNat / 256)) (decide (ctrl &&& cfg.specialMask 2 = cfg.specialValue 2))

/-- ISOFF (R159): 1 exactly when bit 0 of the control register is 0. At reset both channels read as off, by the initial
value 0x00 that is the spec's choice (D6, log 6). -/
def Obligations.IsoffTestsBitZero : Prop :=
  (∀ (ch : Chan) (s : State),
    exec (.isoff ch) s = .next { s with out := some (.bit (if (s.chan ch).cvis.getLsbD 0 then 0 else 1)) })
  ∧ (∀ w : Byte, w &&& 0xFE = 0x80 → decode w = .ok (.isoff (if w.getLsbD 0 then .right else .left)))
  ∧ exec (.isoff .left) State.reset = .next { State.reset with out := some (.bit 1) }
  ∧ exec (.isoff .right) State.reset = .next { State.reset with out := some (.bit 1) }

/-- FTIME (R171): the string of the left chip. -/
def Obligations.FtimeFormatsTheLeftChip : Prop :=
  (∀ s : State,
    exec .ftime s = .next { s with out := some (.text (formatTime Config.hardware s.left.cvis s.left.dvis)) })
  ∧ decode 0x90 = .ok .ftime
  ∧ (∀ w : Byte, w.extractLsb' 4 4 = 0x9 → w.extractLsb' 0 4 ≠ 0 → ∃ why, decode w = .error why)

/-- `formatTime` (R172): its tests in their order, on the three decoded characters, whichever bank of the display each
comes from (R158's order is D12, log 13). -/
def Obligations.FormatTimeTestsInOrder : Prop :=
  ∀ (cfg : Config) (ctrl : Byte) (disp : Word) (t : Chars) (digits : Text),
    t = decodeDisplay cfg disp ctrl →
    digits = [t.c1, t.c2].filter (fun x => decide (x ≠ 0x20)) →
      (ctrl.getLsbD 0 = false → formatTime cfg ctrl disp = [0x20])
      ∧ (ctrl.getLsbD 0 = true → t.c0 = 0x2D → formatTime cfg ctrl disp = [0x2D, 0x2D, 0x2D])
      ∧ (ctrl.getLsbD 0 = true → t.c0 ≠ 0x2D → t.c2 = 0x20 → formatTime cfg ctrl disp = [0x20])
      ∧ (ctrl.getLsbD 0 = true → t.c0 ≠ 0x2D → t.c2 ≠ 0x20 → t.c0 ≠ 0x20 →
          formatTime cfg ctrl disp = [t.c0, 0x68, 0x20] ++ digits ++ [0x6D])
      ∧ (ctrl.getLsbD 0 = true → t.c2 ≠ 0x20 → t.c0 = 0x20 →
          formatTime cfg ctrl disp = digits ++ [0x20, 0x6D, 0x69, 0x6E])

/-- Corner cases of `formatTime` (43_formatter.md section 2): a bank that is not special is never ' ' or '-', so with no
special bank a display that is on always gives an hour digit and two minute digits. Its assumption is the spec's own bank
order (R158, 42_register_decoder.md section 3, D12; log 13): the first character is bits 3:0, the second bits 7:4, the
third bits 11:8. The source does not say which bank is the leftmost digit. -/
def Obligations.PlainBanksGiveHoursAndMinutes : Prop :=
  ∀ (cfg : Config) (ctrl : Byte) (disp : Word),
    (∀ n : Nibble, decodeBank cfg n false ≠ 0x20 ∧ decodeBank cfg n false ≠ 0x2D)
    ∧ (ctrl.getLsbD 0 = true → (∀ b : Bank, specialBank cfg b ctrl = false) →
        formatTime cfg ctrl disp
          = [hexTable (disp.extractLsb' 0 4), 0x68, 0x20, hexTable (disp.extractLsb' 4 4),
             hexTable (disp.extractLsb' 8 4), 0x6D])

/-- FSTATE (R185): the string of both chips. -/
def Obligations.FstateFormatsBothChips : Prop :=
  (∀ s : State,
    exec .fstate s = .next { s with out := some (.text
      (formatState Config.hardware s.right.cvis s.right.dvis s.left.cvis s.left.dvis)) })
  ∧ decode 0xA0 = .ok .fstate
  ∧ (∀ w : Byte, w.extractLsb' 4 4 = 0xA → w.extractLsb' 0 4 ≠ 0 → ∃ why, decode w = .error why)

/-- The machine state is classified from the left chip, off first, then '-' in the first character; the right control
register is read by nothing (43_formatter.md section 3, D20, the spec's reading; log 13). -/
def Obligations.FormatStateClassifiesTheLeftChip : Prop :=
  ∀ (cfg : Config) (rc rc' lc : Byte) (rd ld : Word),
    (lc.getLsbD 0 = false → formatState cfg rc rd lc ld = label "Door open")
    ∧ (lc.getLsbD 0 = true → (decodeDisplay cfg ld lc).c0 = 0x2D → formatState cfg rc rd lc ld = label "Fault")
    ∧ formatState cfg rc rd lc ld = formatState cfg rc' rd lc ld

/-- In the Normal state the labels are joined with ", " in the order phase, centrifuge, options, and each is computed from
its own bits, none suppressing another (43_formatter.md section 3). The order of the four options and the empty join are
the spec's choices (D19, D21; log 13). -/
def Obligations.StateLabelsAreIndependentAndOrdered : Prop :=
  ∀ (cfg : Config) (rc lc : Byte) (rd ld : Word) (phase cent options : List Text),
    lc.getLsbD 0 = true → (decodeDisplay cfg ld lc).c0 ≠ 0x2D →
    phase = ((cfg.phaseTable (cfg.progressCode rd)).map (phaseLabel (decodeDisplay cfg ld lc))).toList →
    cent = (cfg.centLabels (centCode cfg.centReading rd)).toList →
    options = ([(8, "Pre-wash"), (6, "Short"), (7, "Wasser Plus"), (16, "Summer")] : List (Nat × String)).filterMap
      (fun p => if rd.getLsbD p.1 then some (label p.2) else none) →
      formatState cfg rc rd lc ld = List.intercalate [0x2C, 0x20] (phase ++ cent ++ options)

/-- The phase labels, and Finished exactly for the decoded display (' ', ' ', '0') (43_formatter.md section 3, C10, D20,
the spec's reading; log 13). -/
def Obligations.PhaseLabelsAndFinished : Prop :=
  ∀ left : Chars,
    phaseLabel left .preWashing = label "Pre-washing" ∧ phaseLabel left .washing = label "Washing"
    ∧ phaseLabel left .rinsing = label "Rinsing" ∧ phaseLabel left .pausedRinse = label "Paused Rinse"
    ∧ phaseLabel left .pumping = label "Pumping" ∧ phaseLabel left .spinning = label "Spinning"
    ∧ phaseLabel left .ready = label "Ready"
    ∧ (phaseLabel left .idleFinished = label "Finished" ↔ left = ⟨0x20, 0x20, 0x30⟩)
    ∧ (phaseLabel left .idleFinished = label "Idle" ↔ left ≠ ⟨0x20, 0x20, 0x30⟩)

/-- The centrifuge code: the two readings as shifts and masks of the right display; under the default reading every
listed code occurs, under the other 0x40 and 0x50 never do (43_formatter.md section 3, D17). -/
def Obligations.CentrifugeCodeReadings : Prop :=
  (∀ rd : Word, centCode .bit16Units rd = ((rd >>> 16) &&& 0x7E).setWidth 8)
  ∧ (∀ rd : Word, centCode .fieldValue rd = ((rd >>> 17) &&& 0x3F).setWidth 8)
  ∧ (∀ k ∈ ([0x02, 0x04, 0x08, 0x50, 0x40, 0x30, 0x20, 0x10] : List Byte), ∃ rd, centCode .bit16Units rd = k)
  ∧ (∀ rd : Word, centCode .fieldValue rd ≠ 0x40 ∧ centCode .fieldValue rd ≠ 0x50)

/-- The default centrifuge labels, with 'Ø' in UTF-8, and no label for any other code (43_formatter.md section 3, D18,
D22; log 9, log 11). -/
def Obligations.CentrifugeLabels : Prop :=
  defaultCentLabels 0x02 = some [0xC3, 0x98, 0x20, 0x31, 0x36, 0x30, 0x30]
  ∧ defaultCentLabels 0x04 = some [0xC3, 0x98, 0x20, 0x31, 0x34, 0x30, 0x30]
  ∧ defaultCentLabels 0x08 = some [0xC3, 0x98, 0x20, 0x31, 0x32, 0x30, 0x30]
  ∧ defaultCentLabels 0x50 = some [0xC3, 0x98, 0x20, 0x39, 0x30, 0x30]
  ∧ defaultCentLabels 0x40 = some [0xC3, 0x98, 0x20, 0x36, 0x30, 0x30]
  ∧ defaultCentLabels 0x30 = some [0xC3, 0x98, 0x20, 0x34, 0x30, 0x30]
  ∧ defaultCentLabels 0x20 = some (label "Rinse-pause")
  ∧ defaultCentLabels 0x10 = some (label "No")
  ∧ ∀ k : Byte, k ∉ ([0x02, 0x04, 0x08, 0x50, 0x40, 0x30, 0x20, 0x10] : List Byte) → defaultCentLabels k = none

/-- Under the default progress code, a right display with `rd[15:12]` = 2 and `rd[2:0]` = 0, and no other, has the code
0x20, and on this hardware "Washing" is then the first label of a Normal state (43_formatter.md section 3, D15, D16, the
spec's reading; log 9). -/
def Obligations.ProgressCode20IsWashing : Prop :=
  (∀ rd : Word, defaultProgressCode rd = 0x20 ↔ rd.extractLsb' 12 4 = 2 ∧ rd.extractLsb' 0 3 = 0)
  ∧ ∀ (rc lc : Byte) (rd ld : Word),
      lc.getLsbD 0 = true → (decodeDisplay Config.hardware ld lc).c0 ≠ 0x2D →
      rd.extractLsb' 12 4 = 2 → rd.extractLsb' 0 3 = 0 →
        label "Washing" <+: formatState Config.hardware rc rd lc ld

/-- The bits of the right display that no rule reads under the default progress code: 5:3, 11:9, 23 and 31:24
(43_formatter.md section 3, R186's list, derived by the spec). -/
def Obligations.UnreadDisplayBitsDoNotMatter : Prop :=
  ∀ (cfg : Config) (rc lc : Byte) (rd rd' ld : Word),
    cfg.progressCode = defaultProgressCode → rd &&& 0x007FF1C7 = rd' &&& 0x007FF1C7 →
      formatState cfg rc rd lc ld = formatState cfg rc rd' lc ld

/-- Queries write no state, and repeating one with no event in between drives the same value (R56). Their frame:
everything but the output port is left as it was. -/
def Obligations.QueriesWriteNoState : Prop :=
  ∀ (i : Instr) (s : State), i.isInput = false →
    ∃ t, exec i s = .next t ∧ t.left = s.left ∧ t.right = s.right ∧ t.pending = s.pending ∧ t.index = s.index
      ∧ t.out.isSome = true ∧ exec i t = .next t

/-! ### Reset and configuration -/

/-- The reset values: the spec's own choices, except that the windows start empty (10_state.md section 5, D5, D6; log 5,
log 6). The model's bookkeeping starts empty (log 1, log 3). -/
def Obligations.ResetValues : Prop :=
  (∀ c : Chan,
    (State.reset.chan c).sel = false ∧ (State.reset.chan c).acc = 0 ∧ (State.reset.chan c).cnt = 0
    ∧ (State.reset.chan c).cring = ⟨#v[0, 0, 0], 0, 0⟩ ∧ (State.reset.chan c).cvis = 0
    ∧ (State.reset.chan c).dring = ⟨#v[0, 0, 0], 0, 0⟩ ∧ (State.reset.chan c).dvis = 0)
  ∧ State.reset.out = none ∧ State.reset.pending = [] ∧ State.reset.index = 0

/-- What the queries answer right after reset (70_reset_and_hazards.md section 1, derived by the spec from its reset
values, D6). -/
def Obligations.QueriesAfterReset : Prop :=
  (∀ c : Chan, exec (.rdc c) State.reset = .next { State.reset with out := some (.byte 0) }
    ∧ exec (.rdd c) State.reset = .next { State.reset with out := some (.word 0) }
    ∧ exec (.isoff c) State.reset = .next { State.reset with out := some (.bit 1) }
    ∧ exec (.ddisp c) State.reset = .next { State.reset with out := some (.chars (decodeDisplay Config.hardware 0 0)) })
  ∧ exec .ftime State.reset = .next { State.reset with out := some (.text [0x20]) }
  ∧ exec .fstate State.reset = .next { State.reset with out := some (.text (label "Door open")) }

/-- This hardware is the configured machine at its configuration, which meets what the spec fixes of one (00_scope.md
section 3; log 9). -/
def Obligations.HardwareIsTheConfiguredMachine : Prop :=
  Config.hardware.wellFormed votes = true
  ∧ (∀ (i : Instr) (s : State), execWith Config.hardware i s = exec i s)
  ∧ (∀ s : State, stepWith Config.hardware s = step s)
  ∧ ∀ (k : Nat) (s : State), Host.Core.run (coreWith Config.hardware) k s = Host.Core.run core k s

/-- A configuration with `CLK_EDGE` = ANY, or no votes, is refused at every step (41_chip_decoder.md section 2, D2, D23;
93_implementation_defined.md). -/
def Obligations.RefusedConfigurations : Prop :=
  (∀ (cfg : Config) (s : State), cfg.clkEdge = .anyEdge → stepWith cfg s = .refused (.badConfig .clkEdgeAny))
  ∧ (∀ cfg : Config, configReject 0 cfg = some .votesZero)
  ∧ ∀ (cfg : Config) (s : State), cfg.clkEdge ≠ .anyEdge → stepWith cfg s = stepBy (execWith cfg) s

/-- The event sources: only the active clock edge makes a CLK event, with the sampled data bit, and each chip-select edge
makes one event with the level after it (41_chip_decoder.md section 2, 60_exceptions.md section 3, D2). -/
def Obligations.ActiveEdgesMakeEvents : Prop :=
  ∀ (cfg : Config) (d : Bit) (c : Chan),
    (cfg.clkEdge = .rising →
      (LineEdge.clock .rising d).event cfg = some (.clk d) ∧ (LineEdge.clock .falling d).event cfg = none)
    ∧ (cfg.clkEdge = .falling →
      (LineEdge.clock .falling d).event cfg = some (.clk d) ∧ (LineEdge.clock .rising d).event cfg = none)
    ∧ (LineEdge.select c .rising).event cfg = some (.cs c 1)
    ∧ (LineEdge.select c .falling).event cfg = some (.cs c 0)

/-- The host publishes a string only when it changed: a second poll of the same registers publishes nothing, and no sink
is ever given the same string twice in a row (60_exceptions.md section 4, D28; outside the block, log 12). -/
def Obligations.PollPublishesOnlyChanges : Prop :=
  (∀ (cfg : Config) (s : State) (k : Sinks), (k.poll cfg s).poll cfg s = k.poll cfg s)
  ∧ ∀ (cfg : Config) (polled : List State) (k : Sinks),
      k = polled.foldl (fun k s => k.poll cfg s) Sinks.init →
        noNeighboursEqual (k.time.published ++ [Config.openSinkInit])
        ∧ noNeighboursEqual (k.state.published ++ [Config.openSinkInit])
end

