-- ==== Sys2Proof/Laws/Decode.lean ====
section
/-! SUPPORT. The decoder accepts exactly the words that are not reserved, word by word. -/

namespace Sys2Proof

/-- The decoder answers an instruction exactly on the words that R79 does not reserve. -/
theorem decode_isOk (w : Byte) : (decode w).isOk = !reservedWord w := by revert w; decide

/-- A word that is not reserved decodes to some instruction. -/
theorem decode_of_defined {w : Byte} (h : reservedWord w = false) : ∃ i, decode w = .ok i := by
  have hw := decode_isOk w
  cases hd : decode w with
  | ok i => exact ⟨i, rfl⟩
  | error why => simp [hd, h, Except.isOk, Except.toBool] at hw

end Sys2Proof
end

