-- ==== Sys2Proof/Laws/State.lean ====
section
/-! SUPPORT. One lemma for each field under each update of State and Channel, so that no proof unfolds a record update. -/

namespace Sys2Proof.Machine

/-! ### `chan` and `setChan` -/

@[simp] theorem State.chan_left (s : State) : s.chan .left = s.left := rfl
@[simp] theorem State.chan_right (s : State) : s.chan .right = s.right := rfl

@[simp] theorem State.chan_setChan (s : State) (c : Chan) (x : Channel votes) : (s.setChan c x).chan c = x := by
  cases c <;> rfl

@[simp] theorem State.chan_other_setChan (s : State) (c : Chan) (x : Channel votes) :
    (s.setChan c x).chan c.other = s.chan c.other := by cases c <;> rfl

@[simp] theorem State.setChan_chan (s : State) (c : Chan) : s.setChan c (s.chan c) = s := by cases c <;> rfl

theorem State.chan_setChan_ne (s : State) {c d : Chan} (x : Channel votes) (h : d ≠ c) :
    (s.setChan c x).chan d = s.chan d := by cases c <;> cases d <;> first | rfl | exact absurd rfl h

@[simp] theorem State.setChan_out (s : State) (c : Chan) (x : Channel votes) : (s.setChan c x).out = s.out := by
  cases c <;> rfl
@[simp] theorem State.setChan_pending (s : State) (c : Chan) (x : Channel votes) :
    (s.setChan c x).pending = s.pending := by cases c <;> rfl
@[simp] theorem State.setChan_index (s : State) (c : Chan) (x : Channel votes) : (s.setChan c x).index = s.index := by
  cases c <;> rfl

/-! ### The output port -/

@[simp] theorem State.drive_out (s : State) (v : Output) : (s.drive v).out = some v := rfl
@[simp] theorem State.drive_left (s : State) (v : Output) : (s.drive v).left = s.left := rfl
@[simp] theorem State.drive_right (s : State) (v : Output) : (s.drive v).right = s.right := rfl
@[simp] theorem State.drive_pending (s : State) (v : Output) : (s.drive v).pending = s.pending := rfl
@[simp] theorem State.drive_index (s : State) (v : Output) : (s.drive v).index = s.index := rfl
@[simp] theorem State.drive_chan (s : State) (v : Output) (c : Chan) : (s.drive v).chan c = s.chan c := by
  cases c <;> rfl
@[simp] theorem State.drive_drive (s : State) (v u : Output) : (s.drive v).drive u = s.drive u := rfl

@[simp] theorem State.driveNothing_out (s : State) : s.driveNothing.out = none := rfl
@[simp] theorem State.driveNothing_left (s : State) : s.driveNothing.left = s.left := rfl
@[simp] theorem State.driveNothing_right (s : State) : s.driveNothing.right = s.right := rfl
@[simp] theorem State.driveNothing_pending (s : State) : s.driveNothing.pending = s.pending := rfl
@[simp] theorem State.driveNothing_index (s : State) : s.driveNothing.index = s.index := rfl
@[simp] theorem State.driveNothing_chan (s : State) (c : Chan) : s.driveNothing.chan c = s.chan c := by
  cases c <;> rfl

/-! ### Pending words -/

@[simp] theorem State.advance_left (s : State) (ws : List Byte) : (s.advance ws).left = s.left := rfl
@[simp] theorem State.advance_right (s : State) (ws : List Byte) : (s.advance ws).right = s.right := rfl
@[simp] theorem State.advance_out (s : State) (ws : List Byte) : (s.advance ws).out = s.out := rfl
@[simp] theorem State.advance_pending (s : State) (ws : List Byte) : (s.advance ws).pending = ws := rfl
@[simp] theorem State.advance_index (s : State) (ws : List Byte) : (s.advance ws).index = s.index + 1 := rfl
@[simp] theorem State.advance_chan (s : State) (ws : List Byte) (c : Chan) : (s.advance ws).chan c = s.chan c := by
  cases c <;> rfl

@[simp] theorem State.deliverFirst_pending (s : State) (w : Byte) : (s.deliverFirst w).pending = w :: s.pending := rfl
@[simp] theorem State.deliver_pending (s : State) (ws : List Byte) : (s.deliver ws).pending = s.pending ++ ws := rfl
@[simp] theorem State.deliver_left (s : State) (ws : List Byte) : (s.deliver ws).left = s.left := rfl
@[simp] theorem State.deliver_right (s : State) (ws : List Byte) : (s.deliver ws).right = s.right := rfl
@[simp] theorem State.deliver_chan (s : State) (ws : List Byte) (c : Chan) : (s.deliver ws).chan c = s.chan c := by
  cases c <;> rfl
@[simp] theorem State.deliverFirst_chan (s : State) (w : Byte) (c : Chan) : (s.deliverFirst w).chan c = s.chan c := by
  cases c <;> rfl

/-! ### The filters of a channel -/

@[simp] theorem Channel.ctrlFilter_ring {n : Nat} (x : Channel n) : x.ctrlFilter.ring = x.cring := rfl
@[simp] theorem Channel.ctrlFilter_vis {n : Nat} (x : Channel n) : x.ctrlFilter.vis = x.cvis := rfl
@[simp] theorem Channel.dispFilter_ring {n : Nat} (x : Channel n) : x.dispFilter.ring = x.dring := rfl
@[simp] theorem Channel.dispFilter_vis {n : Nat} (x : Channel n) : x.dispFilter.vis = x.dvis := rfl

section
variable {n : Nat} (x : Channel n) (f : Filter n 8) (g : Filter n 32)

@[simp] theorem Channel.setCtrlFilter_sel : (x.setCtrlFilter f).sel = x.sel := rfl
@[simp] theorem Channel.setCtrlFilter_acc : (x.setCtrlFilter f).acc = x.acc := rfl
@[simp] theorem Channel.setCtrlFilter_cnt : (x.setCtrlFilter f).cnt = x.cnt := rfl
@[simp] theorem Channel.setCtrlFilter_cring : (x.setCtrlFilter f).cring = f.ring := rfl
@[simp] theorem Channel.setCtrlFilter_cvis : (x.setCtrlFilter f).cvis = f.vis := rfl
@[simp] theorem Channel.setCtrlFilter_dring : (x.setCtrlFilter f).dring = x.dring := rfl
@[simp] theorem Channel.setCtrlFilter_dvis : (x.setCtrlFilter f).dvis = x.dvis := rfl
@[simp] theorem Channel.ctrlFilter_setCtrlFilter : (x.setCtrlFilter f).ctrlFilter = f := rfl
@[simp] theorem Channel.dispFilter_setCtrlFilter : (x.setCtrlFilter f).dispFilter = x.dispFilter := rfl

@[simp] theorem Channel.setDispFilter_sel : (x.setDispFilter g).sel = x.sel := rfl
@[simp] theorem Channel.setDispFilter_acc : (x.setDispFilter g).acc = x.acc := rfl
@[simp] theorem Channel.setDispFilter_cnt : (x.setDispFilter g).cnt = x.cnt := rfl
@[simp] theorem Channel.setDispFilter_cring : (x.setDispFilter g).cring = x.cring := rfl
@[simp] theorem Channel.setDispFilter_cvis : (x.setDispFilter g).cvis = x.cvis := rfl
@[simp] theorem Channel.setDispFilter_dring : (x.setDispFilter g).dring = g.ring := rfl
@[simp] theorem Channel.setDispFilter_dvis : (x.setDispFilter g).dvis = g.vis := rfl
@[simp] theorem Channel.dispFilter_setDispFilter : (x.setDispFilter g).dispFilter = g := rfl
@[simp] theorem Channel.ctrlFilter_setDispFilter : (x.setDispFilter g).ctrlFilter = x.ctrlFilter := rfl

end

end Sys2Proof.Machine
end

