-- ==== Sys2Proof/Laws/Ops.lean ====
section
/-! SUPPORT. One lemma for each shared operation that says everything it can do. -/

namespace Sys2Proof.Machine

/-! ### The ring -/

theorem RingBuffer.capacity_pos {n w : Nat} (r : RingBuffer n w) : 0 < n :=
  Nat.lt_of_le_of_lt (Nat.zero_le _) r.head.isLt

theorem RingBuffer.size_le {n w : Nat} (r : RingBuffer n w) : r.size.val ≤ n := Nat.le_of_lt_succ r.size.isLt

@[simp] theorem RingBuffer.push_head {n w : Nat} (r : RingBuffer n w) (v : BitVec w) :
    (r.push v).head.val = (r.head.val + 1) % n := rfl

@[simp] theorem RingBuffer.push_size {n w : Nat} (r : RingBuffer n w) (v : BitVec w) :
    (r.push v).size.val = min (r.size.val + 1) n := rfl

/-- A push writes the slot at `head` and no other. -/
theorem RingBuffer.push_slot {n w : Nat} (r : RingBuffer n w) (v : BitVec w) (i : Fin n) :
    (r.push v).slots[i] = if r.head = i then v else r.slots[i] := by
  simp only [RingBuffer.push, Fin.getElem_fin, Vector.getElem_set, Fin.ext_iff]

/-- Pushing never shrinks a window. -/
theorem RingBuffer.size_le_push {n w : Nat} (r : RingBuffer n w) (v : BitVec w) :
    r.size.val ≤ (r.push v).size.val := by
  have := r.size_le
  simp only [RingBuffer.push_size]; omega

/-! ### The filter -/

@[simp] theorem Filter.feed_ring {n w : Nat} (f : Filter n w) (v : BitVec w) : (f.feed v).ring = f.ring.push v := rfl

/-- The common value of a window that is unanimous after a push is the value pushed. -/
theorem RingBuffer.unanimous_push_slot {n w : Nat} (r : RingBuffer n w) (v : BitVec w) (h : (r.push v).unanimous)
    (i : Fin n) : (r.push v).slots[i] = v := by
  rw [h i r.head, RingBuffer.push_slot, if_pos rfl]

/-- What a feed makes visible: the value fed, if the window is then full and unanimous, and else what was visible. -/
theorem Filter.feed_vis {n w : Nat} (f : Filter n w) (v : BitVec w) :
    (f.feed v).vis = if (f.ring.push v).full ∧ (f.ring.push v).unanimous then v else f.vis := by
  unfold Filter.feed
  by_cases h : (f.ring.push v).full ∧ (f.ring.push v).unanimous
  · have hn := f.ring.capacity_pos
    simp only [if_pos h, RingBuffer.slot0, dif_pos hn]
    exact RingBuffer.unanimous_push_slot f.ring v h.2 ⟨0, hn⟩
  · simp only [if_neg h]

/-! ### The channel -/

/-- A tick changes at most the accumulator and the counter. -/
theorem Channel.tick_frame {n : Nat} (d : Bit) (x : Channel n) :
    x.tick d = { x with acc := (x.tick d).acc, cnt := (x.tick d).cnt } := by
  unfold Channel.tick; split <;> rfl

@[simp] theorem Channel.tick_sel {n : Nat} (d : Bit) (x : Channel n) : (x.tick d).sel = x.sel := by
  rw [Channel.tick_frame]
@[simp] theorem Channel.tick_ctrlFilter {n : Nat} (d : Bit) (x : Channel n) :
    (x.tick d).ctrlFilter = x.ctrlFilter := by rw [Channel.tick_frame]; rfl
@[simp] theorem Channel.tick_dispFilter {n : Nat} (d : Bit) (x : Channel n) :
    (x.tick d).dispFilter = x.dispFilter := by rw [Channel.tick_frame]; rfl

theorem Channel.tick_deselected {n : Nat} (d : Bit) (x : Channel n) (h : x.sel = false) : x.tick d = x := by
  simp [Channel.tick, h]

theorem Channel.tick_selected {n : Nat} (d : Bit) (x : Channel n) (h : x.sel = true) :
    x.tick d = { x with acc := (x.acc <<< 1) ||| d.setWidth 32, cnt := x.cnt + 1 } := by
  simp [Channel.tick, h]

/-- The three things that a latch can do. -/
theorem Channel.latch_cases {n : Nat} (mask : Word) (x : Channel n) :
    (x.cnt = ctrlLen ∧ x.latch mask = x.setCtrlFilter (x.ctrlFilter.feed (x.acc.extractLsb' 0 8)))
    ∨ (x.cnt = dispLen ∧ x.latch mask = x.setDispFilter (x.dispFilter.feed (x.acc &&& mask)))
    ∨ (x.cnt ≠ ctrlLen ∧ x.cnt ≠ dispLen ∧ x.latch mask = x) := by
  unfold Channel.latch
  by_cases h : x.cnt = ctrlLen
  · exact .inl ⟨h, if_pos h⟩
  · rw [if_neg h]
    by_cases h' : x.cnt = dispLen
    · exact .inr (.inl ⟨h', if_pos h'⟩)
    · exact .inr (.inr ⟨h, h', if_neg h'⟩)

@[simp] theorem Channel.latch_sel {n : Nat} (mask : Word) (x : Channel n) : (x.latch mask).sel = x.sel := by
  rcases x.latch_cases mask with ⟨_, h⟩ | ⟨_, h⟩ | ⟨_, _, h⟩ <;> simp [h]
@[simp] theorem Channel.latch_acc {n : Nat} (mask : Word) (x : Channel n) : (x.latch mask).acc = x.acc := by
  rcases x.latch_cases mask with ⟨_, h⟩ | ⟨_, h⟩ | ⟨_, _, h⟩ <;> simp [h]
@[simp] theorem Channel.latch_cnt {n : Nat} (mask : Word) (x : Channel n) : (x.latch mask).cnt = x.cnt := by
  rcases x.latch_cases mask with ⟨_, h⟩ | ⟨_, h⟩ | ⟨_, _, h⟩ <;> simp [h]

/-- The three things that a chip-select edge can do: nothing, select, or deselect and latch. -/
theorem Channel.selectEdge_cases {n : Nat} (cfg : Config) (l : Bit) (x : Channel n) :
    (csIgnored cfg.csMode x.sel (selectedSense cfg.csActiveLow l) = true ∧ x.selectEdge cfg l = x)
    ∨ (csIgnored cfg.csMode x.sel (selectedSense cfg.csActiveLow l) = false
        ∧ selectedSense cfg.csActiveLow l = true ∧ x.selectEdge cfg l = { x with sel := true, acc := 0, cnt := 0 })
    ∨ (csIgnored cfg.csMode x.sel (selectedSense cfg.csActiveLow l) = false
        ∧ selectedSense cfg.csActiveLow l = false
        ∧ x.selectEdge cfg l = { x with sel := false }.latch cfg.dispFeedMask) := by
  unfold Channel.selectEdge
  cases h : csIgnored cfg.csMode x.sel (selectedSense cfg.csActiveLow l)
  · cases h' : selectedSense cfg.csActiveLow l
    · exact .inr (.inr ⟨rfl, rfl, by simp [h'] at h ⊢; simp [h]⟩)
    · exact .inr (.inl ⟨rfl, rfl, by simp [h'] at h ⊢; simp [h]⟩)
  · exact .inl ⟨rfl, by simp [h]⟩

end Sys2Proof.Machine
end

