-- ==== Sys2Proof/Laws/Exec.lean ====
section
/-! SUPPORT. What a meaning can do, said once for the input events and once for the queries, and the step's cases. -/

namespace Sys2Proof.Machine

/-- An operation under a configuration answers a state that ticks the two channels, or edges one channel, or drives the
output port; nothing else. -/
theorem execWith_cases (cfg : Config) (i : Instr) (s : State) :
    (∃ d, i = .clk d ∧
      execWith cfg i s = .next { s with left := s.left.tick d, right := s.right.tick d }.driveNothing)
    ∨ (∃ c l, i = .cs c l ∧
      execWith cfg i s = .next (s.setChan c ((s.chan c).selectEdge cfg l)).driveNothing)
    ∨ (i.isInput = false ∧ ∃ v, execWith cfg i s = .next (s.drive v)) := by
  cases i with
  | clk d => exact .inl ⟨d, rfl, rfl⟩
  | cs c l => exact .inr (.inl ⟨c, l, rfl, rfl⟩)
  | rdc ch => exact .inr (.inr ⟨rfl, _, rfl⟩)
  | rdd ch => exact .inr (.inr ⟨rfl, _, rfl⟩)
  | dbankH n => exact .inr (.inr ⟨rfl, _, rfl⟩)
  | dbankS n => exact .inr (.inr ⟨rfl, _, rfl⟩)
  | ddisp ch => exact .inr (.inr ⟨rfl, _, rfl⟩)
  | isoff ch => exact .inr (.inr ⟨rfl, _, rfl⟩)
  | ftime => exact .inr (.inr ⟨rfl, _, rfl⟩)
  | fstate => exact .inr (.inr ⟨rfl, _, rfl⟩)

/-- What an operation does to each channel: a tick, a chip-select edge on that channel, or nothing. -/
theorem execWith_chan (cfg : Config) (i : Instr) {s t : State} (h : execWith cfg i s = .next t) (c : Chan) :
    (∃ d, i = .clk d ∧ t.chan c = (s.chan c).tick d)
    ∨ (∃ l, i = .cs c l ∧ t.chan c = (s.chan c).selectEdge cfg l)
    ∨ ((∀ d, i ≠ .clk d) ∧ (∀ l, i ≠ .cs c l) ∧ t.chan c = s.chan c) := by
  rcases execWith_cases cfg i s with ⟨d, rfl, hx⟩ | ⟨c', l, rfl, hx⟩ | ⟨hi, v, hx⟩ <;>
    (rw [hx] at h; cases h)
  · exact .inl ⟨d, rfl, by cases c <;> rfl⟩
  · by_cases hc : c' = c
    · subst hc; exact .inr (.inl ⟨l, rfl, by simp⟩)
    · refine .inr (.inr ⟨by simp, by simp [hc], ?_⟩)
      rw [State.driveNothing_chan, State.chan_setChan_ne _ _ (Ne.symm hc)]
  · refine .inr (.inr ⟨?_, ?_, by simp⟩)
    · rintro d rfl; simp [Instr.isInput] at hi
    · rintro l rfl; simp [Instr.isInput] at hi

/-- No operation touches the pending words or the index. -/
theorem execWith_stream (cfg : Config) (i : Instr) {s t : State} (h : execWith cfg i s = .next t) :
    t.pending = s.pending ∧ t.index = s.index := by
  rcases execWith_cases cfg i s with ⟨d, rfl, hx⟩ | ⟨c', l, rfl, hx⟩ | ⟨hi, v, hx⟩ <;>
    (rw [hx] at h; cases h) <;> simp

/-- The three cases of a step. -/
theorem stepBy_cases (run : Instr → State → Result) (s : State) :
    (s.pending = [] ∧ stepBy run s = .next s)
    ∨ (∃ w rest i, s.pending = w :: rest ∧ decode w = .ok i ∧ stepBy run s = run i (s.advance rest))
    ∨ (∃ w rest why, s.pending = w :: rest ∧ decode w = .error why
        ∧ stepBy run s = .refused (.reservedEvent w why)) := by
  unfold stepBy
  cases hp : s.pending with
  | nil => exact .inl ⟨rfl, rfl⟩
  | cons w rest =>
    cases hd : decode w with
    | ok i => exact .inr (.inl ⟨w, rest, i, rfl, hd, by simp [hd]⟩)
    | error why => exact .inr (.inr ⟨w, rest, why, rfl, hd, by simp [hd]⟩)

end Sys2Proof.Machine
end

