-- ==== Sys2Proof/Laws/Formatter.lean ====
section
/-! SUPPORT. Small lemmas about the tables and the formatter functions. -/

namespace Sys2Proof.Machine

theorem isOff_of_clear {ctrl : Byte} (h : ctrl.getLsbD 0 = false) : isOff ctrl = true := by unfold isOff; rw [h]; rfl

theorem isOff_of_set {ctrl : Byte} (h : ctrl.getLsbD 0 = true) : isOff ctrl = false := by unfold isOff; rw [h]; rfl

/-- The hexadecimal table holds neither ' ' nor '-' (R173). -/
theorem hexTable_ne (n : Nibble) : hexTable n ≠ space ∧ hexTable n ≠ dash := by revert n; decide

/-- A field depends only on the bits that a mask keeps, if the mask keeps all of its bits. -/
theorem field_congr {a b m : Word} {lo len : Nat} (h : a &&& m = b &&& m) (hl : lo + len ≤ 32)
    (hm : ∀ i : Fin 32, lo ≤ i.val → i.val < lo + len → m.getLsbD i.val = true) : field a lo len = field b lo len := by
  ext i hi
  simp only [field, BitVec.getElem_extractLsb']
  have hb := congrArg (fun x => BitVec.getLsbD x (lo + i)) h
  simp only [BitVec.getLsbD_and, hm ⟨lo + i, by omega⟩ (by simp) (by simp; omega), Bool.and_true] at hb
  exact hb

/-- A bit depends only on the bits that a mask keeps, if the mask keeps it. -/
theorem bit_congr {a b m : Word} {i : Nat} (h : a &&& m = b &&& m) (hm : m.getLsbD i = true) :
    a.getLsbD i = b.getLsbD i := by
  have hb := congrArg (fun x => BitVec.getLsbD x i) h
  simpa [hm] using hb

theorem joinLabels_nil : joinLabels [] = [] := rfl
theorem joinLabels_single (t : Text) : joinLabels [t] = t := rfl
theorem joinLabels_cons (t u : Text) (rest : List Text) :
    joinLabels (t :: u :: rest) = t ++ label ", " ++ joinLabels (u :: rest) := rfl

end Sys2Proof.Machine
end

