-- ==== Sys2Proof/Laws/PerInstr.lean ====
section
/-! SUPPORT. One lemma for each operation of the family "DefinedWord": its operands fit their fields (spec R71) and its word
is no reserved word (R79). -/

namespace Sys2Proof.Laws.DefinedWord

/-- The operands of an operation fit, and its event word is defined. -/
def Statement (i : Instr) : Prop := i.wellFormed = true ∧ reservedWord (encode i) = false

theorem clk (d : Bit) : Statement (.clk d) := by revert d; unfold Statement; decide
theorem cs (c : Chan) (l : Bit) : Statement (.cs c l) := by revert l; unfold Statement; cases c <;> decide
theorem rdc (ch : Chan) : Statement (.rdc ch) := by unfold Statement; cases ch <;> decide
theorem rdd (ch : Chan) : Statement (.rdd ch) := by unfold Statement; cases ch <;> decide
theorem dbankH (n : Nibble) : Statement (.dbankH n) := by revert n; unfold Statement; decide
theorem dbankS (n : Nibble) : Statement (.dbankS n) := by revert n; unfold Statement; decide
theorem ddisp (ch : Chan) : Statement (.ddisp ch) := by unfold Statement; cases ch <;> decide
theorem isoff (ch : Chan) : Statement (.isoff ch) := by unfold Statement; cases ch <;> decide
theorem ftime : Statement .ftime := by unfold Statement; decide
theorem fstate : Statement .fstate := by unfold Statement; decide

end Sys2Proof.Laws.DefinedWord
end

