-- ==== Sys2Proof/Laws/Run.lean ====
section
/-! SUPPORT. Runs, one step at a time. -/

namespace Sys2Proof.Machine

/-- A run goes on with the state that the first step answers. -/
theorem run_of_next (M : Host.Core) {s t : M.State} (h : M.step s = .next t) (k : Nat) :
    M.run (k + 1) s = M.run k t := by
  simp only [Host.Core.run, h]

/-- A refusal of the first step is the refusal of the run. -/
theorem run_of_refused (M : Host.Core) {s : M.State} {r : M.Refusal} (h : M.step s = .refused r) (k : Nat) :
    M.run (k + 1) s = .refused r := by
  simp only [Host.Core.run, h]

/-- A run of `j + k` steps is a run of `k` steps from where `j` steps lead. -/
theorem run_add (M : Host.Core) {s t : M.State} {j : Nat} (h : M.run j s = .next t) (k : Nat) :
    M.run (j + k) s = M.run k t := by
  induction j generalizing s with
  | zero => simp only [Host.Core.run] at h; cases h; simp
  | succ j ih =>
    rw [Nat.add_right_comm]
    cases hs : M.step s with
    | next u => rw [run_of_next M hs] at h ⊢; exact ih h
    | fault r => simp [Host.Core.run, hs] at h
    | refused r => simp [Host.Core.run, hs] at h

/-- An invariant that every step keeps holds of every state that a run reaches. -/
theorem run_keeps (M : Host.Core) (P : M.State → Prop) (hk : ∀ s t, P s → M.step s = .next t → P t) (k : Nat)
    {s t : M.State} (hs : P s) (h : M.run k s = .next t) : P t := by
  induction k generalizing s with
  | zero => simp only [Host.Core.run] at h; cases h; exact hs
  | succ k ih =>
    cases hx : M.step s with
    | next u => rw [run_of_next M hx] at h; exact ih (hk _ _ hs hx) h
    | fault r => simp [Host.Core.run, hx] at h
    | refused r => simp [Host.Core.run, hx] at h

/-- Every operation under a configuration completes. -/
theorem execWith_completes (cfg : Config) (i : Instr) (s : State) : ∃ t, execWith cfg i s = .next t := by
  rcases execWith_cases cfg i s with ⟨_, _, h⟩ | ⟨_, _, _, h⟩ | ⟨_, _, h⟩ <;> exact ⟨_, h⟩

end Sys2Proof.Machine
end

