-- ==== Sys2Proof/Tests/Slice0.lean ====
section
/-! SUPPORT. Tests of the model on the spec's own vectors (95_test_vectors.md; the vector's name stands beside each), the
smoke test of the checks of WellFormed.lean, and a witness for the hypotheses of every statement. -/

namespace Sys2Proof.Tests

open Sys2Proof.Machine Sys2Proof.Safety

/-! ### WellFormed refuses each kind of ill-formed term -/

theorem test_field_value_too_wide : Field.fits ⟨0, 0, 2⟩ = false := by decide
theorem test_field_bounds_reversed : Field.fits ⟨0, 1, 0⟩ = false := by decide
theorem test_field_outside_arg : Field.fits ⟨4, 4, 0⟩ = false := by decide
theorem test_fields_overlap : fieldsWellFormed [⟨1, 0, 0⟩, ⟨1, 1, 0⟩] = false := by decide
theorem test_fields_apart : fieldsWellFormed [⟨1, 1, 1⟩, ⟨0, 0, 1⟩] = true := by decide
theorem test_reserved_op : reservedWord 0x0F = true ∧ reservedWord 0xB0 = true ∧ reservedWord 0xFF = true := by decide
theorem test_reserved_arg :
    reservedWord 0x12 = true ∧ reservedWord 0x24 = true ∧ reservedWord 0x32 = true ∧ reservedWord 0x91 = true := by decide
theorem test_defined_words : reservedWord 0x11 = false ∧ reservedWord 0x23 = false ∧ reservedWord 0x6F = false := by
  decide
theorem test_clock_edge_any_refused :
    configReject votes { Config.hardware with clkEdge := .anyEdge } = some .clkEdgeAny := by decide
theorem test_no_votes_refused : configReject 0 Config.hardware = some .votesZero := by decide
theorem test_config_feed_mask : { Config.hardware with dispFeedMask := 0xFF }.wellFormed votes = false := by decide
theorem test_config_special_table : { Config.hardware with specialTable := hexTable }.wellFormed votes = false := by
  decide
theorem test_config_phase_table : { Config.hardware with phaseTable := fun _ => none }.wellFormed votes = false := by
  decide
theorem test_config_cent_label : { Config.hardware with centLabels := fun _ => none }.wellFormed votes = false := by
  decide
theorem test_hardware_config : Config.hardware.wellFormed votes = true := by decide

/-! ### One word of each operation, written out from R74 -/

theorem test_decode_clk : decode 0b00010001 = .ok (.clk 1) := by decide
theorem test_decode_cs : decode 0b00100010 = .ok (.cs .right 0) := by decide
theorem test_decode_rdc : decode 0b00110001 = .ok (.rdc .right) := by decide
theorem test_decode_rdd : decode 0b01000001 = .ok (.rdd .right) := by decide
theorem test_decode_dbankH : decode 0b01010101 = .ok (.dbankH 0b0101) := by decide
theorem test_decode_dbankS : decode 0b01101101 = .ok (.dbankS 0b1101) := by decide
theorem test_decode_ddisp : decode 0b01110000 = .ok (.ddisp .left) := by decide
theorem test_decode_isoff : decode 0b10000001 = .ok (.isoff .right) := by decide
theorem test_decode_ftime : decode 0b10010000 = .ok .ftime := by decide
theorem test_decode_fstate : decode 0b10100000 = .ok .fstate := by decide
theorem test_decode_rejects : decode 0x24 = .error .reservedArg ∧ decode 0xC3 = .error .reservedOp := by decide
theorem test_table_word : decodeTableWord 8 0x6F = some (.dbankS 0xF) ∧ decodeTableWord 8 0x00 = none := by decide

/-! ### Rings and filters -/

/-- W1: pushing 7, 8, 9, 10 into an empty ring of three. -/
theorem test_push_wraps :
    [(7 : Byte), 8, 9, 10].foldl RingBuffer.push (RingBuffer.empty 3 8 (by decide)) = ⟨#v[10, 8, 9], 1, 3⟩ := by decide

/-- C4: 0xA three times, then 0xB twice. -/
theorem test_feed_disagreement :
    [(0xA : Byte), 0xA, 0xA, 0xB, 0xB].foldl Filter.feed (Filter.empty 3 8 (by decide) 0)
      = ⟨⟨#v[0xB, 0xB, 0xA], 2, 3⟩, 0xA⟩ := by decide

/-- C7: with one vote every feed shows. -/
theorem test_feed_one_vote : ((Filter.empty 1 8 (by decide) 0).feed 0x55).vis = 0x55 := by decide

/-! ### The operations -/

/-- A left channel with these registers and empty windows, everything else as at reset. -/
def leftOf (sel : Bool) (acc : Word) (cnt : Byte) : State :=
  { State.reset with left := { State.reset.left with sel := sel, acc := acc, cnt := cnt } }

/-- A left channel whose visible registers are these. -/
def leftShows (ctrl : Byte) (disp : Word) : State :=
  { State.reset with left := { State.reset.left with cvis := ctrl, dvis := disp } }

/-- The left channel after an outcome. -/
def leftAfter : Result → Option (Channel votes)
  | .next s => some s.left
  | .fault _ => none
  | .refused _ => none

/-- The output after an outcome. -/
def outAfter : Result → Option Output
  | .next s => s.out
  | .fault _ => none
  | .refused _ => none

/-- The test setting "no-special" of 95_test_vectors.md, with no phase code but 0x20. -/
def noSpecial : Config :=
  { Config.hardware with
    specialMask := fun _ => 0x00, specialValue := fun _ => 0x01, phaseTable := phaseTableOver (fun _ => none) }

/-- D2. -/
theorem test_clk_shifts : (leftAfter (exec (.clk 1) (leftOf true 0x5 3))).map (fun x => (x.acc, x.cnt)) = some (0xB, 4) := by
  decide

/-- D1: a deselected channel ignores the clock. -/
theorem test_clk_deselected : leftAfter (exec (.clk 1) State.reset) = some State.reset.left := by decide

/-- The worked example of R123. -/
theorem test_cs_latches :
    (leftAfter (exec (.cs .left 1) (leftOf true 0xB2 8))).map (fun x => (x.sel, x.acc, x.cnt, x.cring))
      = some (false, 0xB2, 8, ⟨#v[0xB2, 0, 0], 1, 1⟩) := by decide

/-- D10: under LEVEL a repeated select clears again. -/
theorem test_cs_level_reselects :
    (leftAfter (csWith { Config.hardware with csMode := .level } .left 0 (leftOf true 0x1F 5))).map (fun x => (x.sel, x.acc, x.cnt))
      = some (true, 0, 0) := by decide

theorem test_rdc : outAfter (exec (.rdc .left) (leftShows 0xB2 0)) = some (.byte 0xB2) := by decide
theorem test_rdd : outAfter (exec (.rdd .left) (leftShows 0 0x123456)) = some (.word 0x00123456) := by decide

/-- W10 and W9. -/
theorem test_dbankH : outAfter (exec (.dbankH 0xA) State.reset) = some (.char 0x41) := by decide
theorem test_dbankS : outAfter (exec (.dbankS 0xD) State.reset) = some (.char 0x2D) := by decide

/-- B2 and B5. -/
theorem test_ddisp_ignores_high_bits :
    outAfter (ddispWith noSpecial .left (leftShows 0 0xFFFABC)) = some (.chars ⟨0x43, 0x42, 0x41⟩) := by decide
theorem test_decodeDisplay_each_bank :
    decodeDisplay { noSpecial with specialMask := ![0x02, 0x02, 0x04], specialValue := ![0x02, 0x00, 0x04] } 0x500 0x02
      = ⟨0x20, 0x30, 0x35⟩ := by decide

/-- I1 and I4. -/
theorem test_isoff : outAfter (exec (.isoff .left) State.reset) = some (.bit 1) := by decide
theorem test_isoff_on : outAfter (exec (.isoff .left) (leftShows 0xB3 0)) = some (.bit 0) := by decide

/-- T1, and T4, T7, T9 on the decoded characters. -/
theorem test_ftime : outAfter (ftimeWith noSpecial (leftShows 0x01 0x321)) = some (.text (label "1h 23m")) := by decide
theorem test_timeText :
    timeText ⟨ascii '1', ascii ' ', ascii '5'⟩ = label "1h 5m" ∧ timeText ⟨ascii '-', ascii ' ', ascii ' '⟩ = label "---"
      ∧ timeText ⟨ascii ' ', ascii '-', ascii '5'⟩ = label "-5 min" := by decide

/-- S1, and S5, S12, S9. -/
theorem test_fstate :
    formatState noSpecial 0 0x00042100 0x01 0x321 = label "Washing, Ø 1400, Pre-wash" := by decide
theorem test_formatState_settings :
    formatState noSpecial 0 0x000101C0 0x01 0x321 = label "Pre-wash, Short, Wasser Plus, Summer"
      ∧ formatState { noSpecial with centReading := .fieldValue } 0 0x00042100 0x01 0x321
        = label "Washing, Ø 1600, Pre-wash"
      ∧ formatState { noSpecial with specialValue := ![0x00, 0x00, 0x01], phaseTable := fun _ => some .idleFinished }
        0 0x00001000 0x01 0x000 = label "Finished" := by decide

/-! ### Text, events, stream -/

theorem test_utf8 : label "Ø 9" = [0xC3, 0x98, 0x20, 0x39] := by decide

/-- Program P1's first line and two queries, in the assembler syntax. -/
theorem test_assemble :
    assemble Config.hardware ["FRAME 0, 8, 0xB2     ; one frame", "RDC 0", "", "CS 1, 1", "DBANK.S 13"]
      = some [0x20, 0x11, 0x10, 0x11, 0x11, 0x10, 0x10, 0x11, 0x10, 0x21, 0x30, 0x23, 0x6D] := by decide

theorem test_falling_edge_is_no_event :
    eventWords Config.hardware [.select .left .falling, .clock .rising 1, .clock .falling 1, .select .left .rising]
      = [0x20, 0x11, 0x21] := by decide

theorem test_step_takes_word : step (State.reset.withFetchWord 8 0x80) = .next { State.reset with out := some (.bit 1), index := 1 } := by
  rfl

theorem test_step_refuses_reserved :
    step (State.reset.withFetchWord 8 0x12) = .refused (.reservedEvent 0x12 .reservedArg) := by rfl

/-! ### Witnesses: states and operands that meet the hypotheses of each statement -/

/-- A left channel that is selected, has counted 8 bits 0x5A, and whose window holds two 0x5A, so that a deselect
confirms it. -/
def aboutToConfirm : State :=
  { State.reset with left := { State.reset.left with
      sel := true, acc := 0x5A, cnt := 8, cring := ⟨#v[0x5A, 0x5A, 0], 2, 2⟩ } }

/-- The same with 24 bits and the display window. -/
def aboutToConfirmDisplay : State :=
  { State.reset with left := { State.reset.left with
      sel := true, acc := 0x123456, cnt := 24, dring := ⟨#v[0x123456, 0x123456, 0], 2, 2⟩ } }

/-- CS events under LEVEL. -/
def levelConfig : Config := { noSpecial with csMode := .level }

/-- Every bank special, the test setting "all-special". -/
def allSpecial : Config := { noSpecial with specialValue := fun _ => 0x00 }

theorem witness_DecodeAndEncodeAgree : decode 0x10 = .ok (.clk 0) ∧ decode 0xA0 = .ok .fstate := by decide

theorem witness_StepRunsTheDecodedEvent :
    (State.reset.deliverFirst 0x11).pending = 0x11 :: [] ∧ decode 0x11 = .ok (.clk 1) := by decide

theorem witness_StepWithoutEventChangesNothing : State.reset.pending = [] := by decide

theorem witness_RefusalLastsForTheRun :
    ({ State.reset with pending := [0x11, 0x12, 0x10] } : State).pending = [(0x11 : Byte)] ++ 0x12 :: [0x10]
      ∧ (∀ v ∈ [(0x11 : Byte)], reservedWord v = false) ∧ decode 0x12 = .error .reservedArg ∧ [(0x11 : Byte)].length < 2 := by
  decide

theorem witness_ClkShiftsIntoSelectedChannels :
    ((0x11 : Byte) &&& 0xFE = 0x10) ∧ ((0x12 : Byte).extractLsb' 4 4 = 0x1 ∧ (0x12 : Byte).extractLsb' 1 3 ≠ 0) := by
  decide

/-- A repeated level under TRANSITION, a select, and a deselect, at both ends of the level. -/
theorem witness_CsActsOnItsChannel :
    (false = (if noSpecial.csActiveLow then (1 : Bit) == 0 else (1 : Bit) == 1)
      ∧ noSpecial.csMode = .transition ∧ false = (State.reset.chan .left).sel)
    ∧ (true = (if noSpecial.csActiveLow then (0 : Bit) == 0 else (0 : Bit) == 1)
      ∧ ¬ (noSpecial.csMode = .transition ∧ true = (State.reset.chan .left).sel))
    ∧ (false = (if levelConfig.csActiveLow then (1 : Bit) == 0 else (1 : Bit) == 1)
      ∧ ¬ (levelConfig.csMode = .transition ∧ false = (State.reset.chan .left).sel))
    ∧ ((0x23 : Byte) &&& 0xFC = 0x20) ∧ ((0x24 : Byte).extractLsb' 4 4 = 0x2 ∧ (0x24 : Byte).extractLsb' 2 2 ≠ 0) := by
  decide

theorem witness_CsCompletesOnThisHardware :
    (State.reset.chan .left).sel = false ∧ (aboutToConfirm.chan .left).sel = true := by decide

theorem witness_LatchFeedsByCount :
    ((leftOf true 0x2AA 10).chan .left).sel = true ∧ selectedSense noSpecial.csActiveLow 1 = false
      ∧ ((leftOf true 0x2AA 10).chan .left).cnt ≠ 8 ∧ ((leftOf true 0x2AA 10).chan .left).cnt ≠ 24
      ∧ aboutToConfirm.left.cnt = 8 ∧ aboutToConfirmDisplay.left.cnt = 24 := by decide

theorem witness_InputEventFrame :
    (∃ t, exec (.clk 1) State.reset = .next t ∧ (State.reset.chan .left).sel = false)
      ∧ (∃ t, exec (.cs .left 0) State.reset = .next t
          ∧ (State.reset.chan .left).cnt ≠ 8 ∧ (State.reset.chan .left).cnt ≠ 24)
      ∧ (∃ t, exec (.cs .left 1) State.reset = .next t) :=
  ⟨⟨_, rfl, by decide⟩, ⟨_, rfl, by decide, by decide⟩, ⟨_, rfl⟩⟩

theorem witness_RegistersChangeOnlyAtADeselect :
    ∃ t, execWith noSpecial (.cs .left 1) aboutToConfirm = .next t ∧ (t.chan .left).cring ≠ (aboutToConfirm.chan .left).cring :=
  ⟨_, rfl, by decide⟩

theorem witness_LevelModeVotesAgain :
    levelConfig.csMode = .level ∧ selectedSense levelConfig.csActiveLow 1 = false
      ∧ (aboutToConfirm.chan .left).cnt = 8 := by decide

/-- Two states whose right channels differ. -/
theorem witness_ChannelsDoNotInterfere :
    ∃ t, aboutToConfirm.chan .right = State.reset.chan .right ∧ aboutToConfirm.chan .left ≠ State.reset.chan .left
      ∧ (aboutToConfirm.deliverFirst 0x22).chan .right = (State.reset.deliverFirst 0x22).chan .right
      ∧ (aboutToConfirm.deliverFirst 0x22).pending = (State.reset.deliverFirst 0x22).pending
      ∧ step (aboutToConfirm.deliverFirst 0x22) = .next t :=
  ⟨_, by decide, by decide, by decide, by decide, rfl⟩

theorem witness_LaterWordsDoNotAffectAStep :
    ∃ t, (State.reset.deliver [0x20]).pending ≠ [] ∧ step (State.reset.deliver [0x20]) = .next t :=
  ⟨_, by decide, rfl⟩

/-- A feed that completes a unanimous window, and one that does not. -/
theorem witness_FeedShowsAUnanimousFullWindow :
    ((aboutToConfirm.left.cring.push 0x5A).size.val = 3
      ∧ ∀ i j : Fin 3, (aboutToConfirm.left.cring.push 0x5A).slots[i] = (aboutToConfirm.left.cring.push 0x5A).slots[j])
    ∧ ¬ ((aboutToConfirm.left.cring.push 0x5B).size.val = 3
      ∧ ∀ i j : Fin 3, (aboutToConfirm.left.cring.push 0x5B).slots[i] = (aboutToConfirm.left.cring.push 0x5B).slots[j]) := by
  decide

theorem witness_RingHoldsTheLatestPushes : 0 < 3 ∧ 2 < min [(7 : Byte), 8, 9, 10].length 3 := by decide

/-- A window of 1, and one of 3 that a single dissenting feed keeps at the last agreed value. -/
theorem witness_FilterShowsTheLastConfirmedValue :
    0 < 1 ∧ 0 < 3 ∧ lastConfirmed 3 (0 : Byte) ([7, 7, 7, 9] : List Byte).reverse = 7 := by decide

theorem witness_DebounceTakesAFullWindow :
    2 < 3 ∧ ∀ i : Fin 3, (RingBuffer.mk #v[(0xA : Byte), 0xA, 0xA] 0 3).slots[i] ≠ 0xB := by decide

theorem witness_AChangedRegisterIsConfirmed :
    (∃ t, exec (.cs .left 1) aboutToConfirm = .next t ∧ (t.chan .left).cvis ≠ (aboutToConfirm.chan .left).cvis)
      ∧ (∃ t, exec (.cs .left 1) aboutToConfirmDisplay = .next t
          ∧ (t.chan .left).dvis ≠ (aboutToConfirmDisplay.chan .left).dvis) :=
  ⟨⟨_, rfl, by decide⟩, ⟨_, rfl, by decide⟩⟩

theorem witness_NothingClearsAWindow : ∃ t, execWith noSpecial (.cs .left 1) aboutToConfirm = .next t := ⟨_, rfl⟩

theorem aboutToConfirm_inv : StateInv Config.hardware aboutToConfirm :=
  ⟨show ChannelInv Config.hardware aboutToConfirm.left by decide,
   show ChannelInv Config.hardware aboutToConfirm.right by decide⟩

theorem aboutToConfirmDisplay_inv : StateInv Config.hardware aboutToConfirmDisplay :=
  ⟨show ChannelInv Config.hardware aboutToConfirmDisplay.left by decide,
   show ChannelInv Config.hardware aboutToConfirmDisplay.right by decide⟩

/-- A state with part of a window filled, about to confirm. -/
theorem witness_StepKeepsTheFilterInvariant :
    ∃ t, StateInv Config.hardware (aboutToConfirm.deliverFirst 0x21) ∧ step (aboutToConfirm.deliverFirst 0x21) = .next t
      ∧ (t.chan .left).cvis = 0x5A :=
  ⟨_, aboutToConfirm_inv, rfl, by decide⟩

theorem witness_FrameOfAnyLengthLatchesModulo256 :
    ((leftOf true 0 0).chan .left).sel = true ∧ ((leftOf true 0 0).chan .left).acc = 0
      ∧ ((leftOf true 0 0).chan .left).cnt = 0
      ∧ ({ leftOf true 0 0 with pending := [0x11, 0x10, 0x21] } : State).pending
        = [(1 : Bit), 0].map (fun d => encode (.clk d)) ++ encode (.cs .left 1) :: [] := by decide

theorem witness_CleanFrameIsLatched :
    (State.reset.chan .left).sel = false ∧ 0xB2 < 2 ^ 8
      ∧ ({ State.reset with pending := [0x20, 0x11, 0x10, 0x11, 0x11, 0x10, 0x10, 0x11, 0x10, 0x21, 0x30] } : State).pending
        = (pseudoFrame Config.hardware .left 8 0xB2).map encode ++ [0x30] := by decide

theorem witness_VisibleRegistersFollowTheFrames :
    configReject votes Config.hardware = none ∧ Config.hardware.csMode = .transition := by decide

/-- The left chip is selected and has one bit of a frame; its deselect is pending. -/
theorem witness_StepKeepsTheRegistersOnTheEvents :
    ∃ s t, configReject votes Config.hardware = none ∧ Config.hardware.csMode = .transition
      ∧ FollowsEvents Config.hardware [.cs .left 0, .clk 1] s ∧ step s = .next t ∧ stepWith Config.hardware s = .next t
      ∧ s.pending ≠ [] :=
  ⟨{ leftOf true 1 1 with pending := [0x21], index := 2 }, _, by decide, by decide,
    ⟨rfl, show ChannelFollows Config.hardware .left _ _ by decide,
      show ChannelFollows Config.hardware .right _ _ by decide⟩, rfl, rfl, by decide⟩

theorem witness_RdcReadsTheControlRegister :
    StateInv Config.hardware aboutToConfirm ∧ (aboutToConfirm.chan .left).cring.size.val < votes
      ∧ ((0x31 : Byte) &&& 0xFE = 0x30) ∧ ((0x32 : Byte).extractLsb' 4 4 = 0x3 ∧ (0x32 : Byte).extractLsb' 1 3 ≠ 0) :=
  ⟨aboutToConfirm_inv, by decide⟩

theorem witness_RddReadsTheDisplayRegister :
    StateInv Config.hardware aboutToConfirmDisplay ∧ (aboutToConfirmDisplay.chan .left).dring.size.val < votes
      ∧ ((0x41 : Byte) &&& 0xFE = 0x40) ∧ ((0x42 : Byte).extractLsb' 4 4 = 0x4 ∧ (0x42 : Byte).extractLsb' 1 3 ≠ 0) :=
  ⟨aboutToConfirmDisplay_inv, by decide⟩

theorem witness_DbankHLooksUpTheHexTable : (0x5F : Byte) &&& 0xF0 = 0x50 := by decide

theorem witness_DbankSLooksUpTheSpecialTable : (0x6F : Byte) &&& 0xF0 = 0x60 := by decide

theorem witness_DdispDecodesTheDisplay :
    (0xFFFABC : Word) &&& 0xFFF = 0xABC &&& 0xFFF ∧ (0x71 : Byte) &&& 0xFE = 0x70 := by decide

theorem witness_IsoffTestsBitZero : (0x81 : Byte) &&& 0xFE = 0x80 := by decide

theorem witness_FtimeFormatsTheLeftChip : (0x91 : Byte).extractLsb' 4 4 = 0x9 ∧ (0x91 : Byte).extractLsb' 0 4 ≠ 0 := by
  decide

/-- A display for each branch of `formatTime`: off, fault, blank, hours, minutes only. -/
theorem witness_FormatTimeTestsInOrder :
    (0x00 : Byte).getLsbD 0 = false ∧ (0x01 : Byte).getLsbD 0 = true
      ∧ (decodeDisplay allSpecial 0xD 0x01).c0 = 0x2D
      ∧ (decodeDisplay allSpecial 0x00D0 0x01).c0 ≠ 0x2D ∧ (decodeDisplay allSpecial 0x00D0 0x01).c2 = 0x20
      ∧ (decodeDisplay noSpecial 0x321 0x01).c0 ≠ 0x2D ∧ (decodeDisplay noSpecial 0x321 0x01).c2 ≠ 0x20
      ∧ (decodeDisplay noSpecial 0x321 0x01).c0 ≠ 0x20
      ∧ (decodeDisplay allSpecial 0x540 0x01).c2 ≠ 0x20 ∧ (decodeDisplay allSpecial 0x540 0x01).c0 = 0x20 := by decide

theorem witness_PlainBanksGiveHoursAndMinutes :
    (0x01 : Byte).getLsbD 0 = true ∧ ∀ b : Bank, specialBank noSpecial b 0x01 = false := by decide

theorem witness_FstateFormatsBothChips : (0xA1 : Byte).extractLsb' 4 4 = 0xA ∧ (0xA1 : Byte).extractLsb' 0 4 ≠ 0 := by
  decide

theorem witness_FormatStateClassifiesTheLeftChip :
    (0x00 : Byte).getLsbD 0 = false ∧ (0x01 : Byte).getLsbD 0 = true
      ∧ (decodeDisplay allSpecial 0x00D 0x01).c0 = 0x2D := by decide

theorem witness_StateLabelsAreIndependentAndOrdered :
    (0x01 : Byte).getLsbD 0 = true ∧ (decodeDisplay noSpecial 0x321 0x01).c0 ≠ 0x2D := by decide

theorem witness_CentrifugeLabels :
    (0x00 : Byte) ∉ ([0x02, 0x04, 0x08, 0x50, 0x40, 0x30, 0x20, 0x10] : List Byte)
      ∧ (0x7E : Byte) ∉ ([0x02, 0x04, 0x08, 0x50, 0x40, 0x30, 0x20, 0x10] : List Byte) := by decide

/-- With the digit 1 in bank 0 the first character is '1' or 'c', whichever the open masks select. -/
theorem witness_ProgressCode20IsWashing :
    (0x01 : Byte).getLsbD 0 = true ∧ (decodeDisplay Config.hardware 0x001 0x01).c0 ≠ 0x2D
      ∧ (0x00042100 : Word).extractLsb' 12 4 = 2 ∧ (0x00042100 : Word).extractLsb' 0 3 = 0 := by
  refine ⟨by decide, ?_, by decide, by decide⟩
  have hc : ∀ special : Bool, decodeBank Config.hardware (field 0x001 0 4) special ≠ 0x2D := by decide
  exact hc _

theorem witness_UnreadDisplayBitsDoNotMatter :
    noSpecial.progressCode = defaultProgressCode ∧ (0xFF842138 : Word) &&& 0x007FF1C7 = 0x00042100 &&& 0x007FF1C7 :=
  ⟨rfl, by decide⟩

theorem witness_QueriesWriteNoState : Instr.isInput .fstate = false ∧ Instr.isInput (.rdc .left) = false := by decide

theorem witness_RefusedConfigurations :
    ({ Config.hardware with clkEdge := .anyEdge } : Config).clkEdge = .anyEdge ∧ Config.hardware.clkEdge ≠ .anyEdge := by
  decide

theorem witness_ActiveEdgesMakeEvents :
    Config.hardware.clkEdge = .rising ∧ ({ Config.hardware with clkEdge := .falling } : Config).clkEdge = .falling := by
  decide

end Sys2Proof.Tests
end

section
/-! Queries: what one drives is a function of the two channels, and it leaves the channels alone (20_memory.md, R56). -/

namespace Sys2Proof.Machine

/-- The machine is the configured machine at this hardware's configuration (R7, R27). -/
theorem exec_eq_execWith_hardware (i : Instr) (s : State) : exec i s = execWith Config.hardware i s := by
  cases i <;> rfl

/-- What a query drives depends on the two channels alone: every state with the channels of `s` is driven the same
value, and nothing else of it is written. -/
theorem execWith_query_of_chan_eq (cfg : Config) {i : Instr} (hi : i.isInput = false) (s : State) :
    ∃ v, ∀ t : State, (∀ c, t.chan c = s.chan c) → execWith cfg i t = .next (t.drive v) := by
  cases i with
  | clk d => cases hi
  | cs c l => cases hi
  | rdc ch => exact ⟨.byte (s.chan ch).cvis, fun t h => by rw [← h]; rfl⟩
  | rdd ch => exact ⟨.word (s.chan ch).dvis, fun t h => by rw [← h]; rfl⟩
  | dbankH n => exact ⟨.char (decodeBank cfg n false), fun _ _ => rfl⟩
  | dbankS n => exact ⟨.char (decodeBank cfg n true), fun _ _ => rfl⟩
  | ddisp ch =>
    exact ⟨.chars (decodeDisplay cfg (s.chan ch).dvis (s.chan ch).cvis), fun t h => by rw [← h]; rfl⟩
  | isoff ch => exact ⟨.bit (BitVec.ofBool (isOff (s.chan ch).cvis)), fun t h => by rw [← h]; rfl⟩
  | ftime =>
    exact ⟨.text (formatTime cfg (s.chan .left).cvis (s.chan .left).dvis), fun t h => by rw [← h]; rfl⟩
  | fstate =>
    exact ⟨.text (formatState cfg (s.chan .right).cvis (s.chan .right).dvis (s.chan .left).cvis (s.chan .left).dvis),
      fun t h => by rw [← h, ← h]; rfl⟩

/-- Settles O49: the value driven depends on the channels alone, and driving it leaves them as they were. -/
theorem queriesWriteNoState : Obligations.QueriesWriteNoState := by
  intro i s hi
  obtain ⟨v, hv⟩ := execWith_query_of_chan_eq Config.hardware hi s
  have hfirst : exec i s = .next (s.drive v) := by
    rw [exec_eq_execWith_hardware]; exact hv s fun _ => rfl
  have hagain : exec i (s.drive v) = .next (s.drive v) := by
    rw [exec_eq_execWith_hardware]; exact hv (s.drive v) (s.drive_chan v)
  exact ⟨s.drive v, hfirst, rfl, rfl, rfl, rfl, rfl, hagain⟩

end Sys2Proof.Machine
end

section
/-! The ring and the filter (40_consensus_filter.md): where the latest pushes stand below `head`, and what a feed
shows. -/

namespace Sys2Proof.Machine

/-- The index of the slot that holds the `j`-th latest push, counted from 0: `j + 1` below `head`, modulo the
capacity (R100). -/
def RingBuffer.latestSlot {n w : Nat} (r : RingBuffer n w) (j : Nat) : Fin n :=
  ⟨(r.head.val + (n - 1 - j)) % n, Nat.mod_lt _ r.capacity_pos⟩

/-- What the slot of the `j`-th latest push holds. -/
def RingBuffer.latest {n w : Nat} (r : RingBuffer n w) (j : Nat) : BitVec w := r.slots[r.latestSlot j]

section
variable {n w : Nat} (r : RingBuffer n w) (v : BitVec w)

theorem RingBuffer.push_latestSlot_zero : (r.push v).latestSlot 0 = r.head := by
  have hn := r.capacity_pos
  apply Fin.ext
  calc ((r.head.val + 1) % n + (n - 1 - 0)) % n
      = (r.head.val + 1 + (n - 1 - 0)) % n := Nat.mod_add_mod ..
    _ = (r.head.val + n) % n := by congr 1; omega
    _ = r.head.val := by rw [Nat.add_mod_right, Nat.mod_eq_of_lt r.head.isLt]

/-- A push makes the `j`-th latest slot the next one, as long as the window reaches that far. -/
theorem RingBuffer.push_latestSlot_succ {j : Nat} (hj : j + 1 < n) :
    (r.push v).latestSlot (j + 1) = r.latestSlot j := by
  apply Fin.ext
  calc ((r.head.val + 1) % n + (n - 1 - (j + 1))) % n
      = (r.head.val + 1 + (n - 1 - (j + 1))) % n := Nat.mod_add_mod ..
    _ = (r.head.val + (n - 1 - j)) % n := by congr 1; omega

/-- Only the oldest slot of the window stands at `head`, where the next push writes. -/
theorem RingBuffer.head_ne_latestSlot {j : Nat} (hj : j + 1 < n) : r.head ≠ r.latestSlot j := by
  have hlt := r.head.isLt
  intro heq
  have hmod : r.head.val = (r.head.val + (n - 1 - j)) % n := congrArg Fin.val heq
  rcases Nat.lt_or_ge (r.head.val + (n - 1 - j)) n with hin | hwrap
  · rw [Nat.mod_eq_of_lt hin] at hmod; omega
  · rw [Nat.mod_eq_sub_mod hwrap, Nat.mod_eq_of_lt (by omega)] at hmod; omega

theorem RingBuffer.push_latest_zero : (r.push v).latest 0 = v := by
  rw [RingBuffer.latest, RingBuffer.push_slot, if_pos (RingBuffer.push_latestSlot_zero r v).symm]

theorem RingBuffer.push_latest_succ {j : Nat} (hj : j + 1 < n) :
    (r.push v).latest (j + 1) = r.latest j := by
  simp only [RingBuffer.latest, RingBuffer.push_latestSlot_succ r v hj, RingBuffer.push_slot,
    if_neg (r.head_ne_latestSlot hj)]

end

/-- The size counts the pushes up to the capacity (R101). -/
theorem RingBuffer.size_foldl_push {n w : Nat} (h : 0 < n) (vs : List (BitVec w)) :
    (vs.foldl RingBuffer.push (RingBuffer.empty n w h)).size.val = min vs.length n := by
  induction vs using List.reverseRecOn with
  | nil => simp [RingBuffer.empty]
  | append_singleton vs v ih =>
    rw [List.foldl_concat, RingBuffer.push_size, ih, List.length_append, List.length_singleton]
    omega

/-- The slots below `head` hold the latest pushes, newest first (R101). -/
theorem RingBuffer.latest_foldl_push {n w : Nat} (r : RingBuffer n w) (vs : List (BitVec w)) (j : Nat)
    (hj : j < vs.length) (hn : j < n) :
    some ((vs.foldl RingBuffer.push r).latest j) = vs.reverse[j]? := by
  induction vs using List.reverseRecOn generalizing j with
  | nil => cases hj
  | append_singleton vs v ih =>
    rw [List.foldl_concat, List.reverse_concat]
    cases j with
    | zero => rw [RingBuffer.push_latest_zero, List.getElem?_cons_zero]
    | succ j =>
      rw [List.length_append, List.length_singleton] at hj
      rw [RingBuffer.push_latest_succ _ _ hn, List.getElem?_cons_succ]
      exact ih j (by omega) (by omega)

/-- Settles O20, by induction over the pushes: the latest push stands just below `head`, and each push moves the
earlier ones one slot further from it. -/
theorem ringHoldsTheLatestPushes : Obligations.RingHoldsTheLatestPushes := by
  intro n w h vs
  refine ⟨RingBuffer.size_foldl_push h vs, fun j hj => ?_⟩
  obtain ⟨hlen, hcap⟩ := Nat.lt_min.mp hj
  rw [← RingBuffer.latest_foldl_push (RingBuffer.empty n w h) vs j hlen hcap]
  exact Vector.getElem?_eq_getElem (Nat.mod_lt _ h)

/-- Settles O19: the fields of a push are its definition (R100), and the visible value after a feed splits on the
consensus test (R104). -/
theorem feedShowsAUnanimousFullWindow : Obligations.FeedShowsAUnanimousFullWindow := by
  intro n w f v
  refine ⟨rfl, f.ring.push_head v, f.ring.push_size v, f.feed_ring v, fun hfull hunanimous => ?_, fun hno => ?_⟩
  · rw [Filter.feed_vis, if_pos ⟨hfull, hunanimous⟩]
  · rw [Filter.feed_vis, if_neg hno]

end Sys2Proof.Machine
end

section
/-! The chip decoder (41_chip_decoder.md): which words are CLK and CS, when a chip-select edge acts and how, and what
changes a register. -/

namespace Sys2Proof

/-! ### The words of CLK and CS (30_encoding.md) -/

/-- Where a mask keeps every bit of a field, a masked word has the pattern's field. -/
theorem extractLsb'_of_masked {w mask pattern : Byte} (h : w &&& mask = pattern) (lo len : Nat)
    (hm : mask.extractLsb' lo len = BitVec.allOnes len) : w.extractLsb' lo len = pattern.extractLsb' lo len := by
  rw [← h, BitVec.extractLsb'_and, hm, BitVec.and_allOnes]

theorem acceptIf_of_masked {w mask pattern : Byte} (h : w &&& mask = pattern) (i : Instr) :
    acceptIf w mask pattern i = .ok i := by
  rw [acceptIf, maskedIs, if_pos (beq_iff_eq.mpr h)]

theorem acceptIf_of_not_masked {w mask pattern : Byte} (h : w &&& mask ≠ pattern) (i : Instr) :
    acceptIf w mask pattern i = .error .reservedArg := by
  rw [acceptIf, maskedIs, if_neg (mt beq_iff_eq.mp h)]

theorem decode_of_op_clk {w : Byte} (h : w.extractLsb' 4 4 = 0x1) :
    decode w = acceptIf w 0xFE 0x10 (.clk (bit0 w)) := by
  rw [decode, h]; rfl

theorem decode_of_op_cs {w : Byte} (h : w.extractLsb' 4 4 = 0x2) :
    decode w = acceptIf w 0xFC 0x20 (.cs (Chan.ofBit (bit1 w)) (bit0 w)) := by
  rw [decode, h]; rfl

theorem decode_clk_of_masked {w : Byte} (h : w &&& 0xFE = 0x10) : decode w = .ok (.clk (bit0 w)) := by
  rw [decode_of_op_clk (extractLsb'_of_masked h 4 4 (by decide)), acceptIf_of_masked h]

theorem decode_cs_of_masked {w : Byte} (h : w &&& 0xFC = 0x20) :
    decode w = .ok (.cs (Chan.ofBit (bit1 w)) (bit0 w)) := by
  rw [decode_of_op_cs (extractLsb'_of_masked h 4 4 (by decide)), acceptIf_of_masked h]

theorem decode_clk_reserved {w : Byte} (hop : w.extractLsb' 4 4 = 0x1) (hres : w.extractLsb' 1 3 ≠ 0) :
    decode w = .error .reservedArg := by
  rw [decode_of_op_clk hop]
  exact acceptIf_of_not_masked (fun h => hres (extractLsb'_of_masked h 1 3 (by decide))) _

theorem decode_cs_reserved {w : Byte} (hop : w.extractLsb' 4 4 = 0x2) (hres : w.extractLsb' 2 2 ≠ 0) :
    decode w = .error .reservedArg := by
  rw [decode_of_op_cs hop]
  exact acceptIf_of_not_masked (fun h => hres (extractLsb'_of_masked h 2 2 (by decide))) _

/-- A one-bit channel field names the right chip exactly when its bit is set (R13, R71). -/
theorem Chan.ofBit_extractLsb' (w : Byte) (k : Nat) :
    Chan.ofBit (w.extractLsb' k 1) = if w.getLsbD k then .right else .left := by
  have hbit : w.extractLsb' k 1 = BitVec.ofBool (w.getLsbD k) := by
    ext i hi
    obtain rfl : i = 0 := by omega
    simp
  rw [hbit]
  cases w.getLsbD k <;> rfl

end Sys2Proof

namespace Sys2Proof.Machine

/-! ### The chip-select edge and the latch -/

/-- An edge is ignored only under TRANSITION, when the sense is the flag's value already (R123, R131). -/
theorem csIgnored_iff {mode : CsMode} {sel sense : Bool} :
    csIgnored mode sel sense = true ↔ mode = .transition ∧ sense = sel := by
  cases mode <;> simp [csIgnored]

theorem execWith_cs (cfg : Config) (c : Chan) (l : Bit) (s : State) :
    execWith cfg (.cs c l) s = .next { s.setChan c ((s.chan c).selectEdge cfg l) with out := none } := rfl

section
variable {n : Nat} {cfg : Config} {l : Bit} {x : Channel n}

theorem Channel.selectEdge_of_ignored
    (h : cfg.csMode = .transition ∧ selectedSense cfg.csActiveLow l = x.sel) : x.selectEdge cfg l = x := by
  rw [Channel.selectEdge, if_pos (csIgnored_iff.mpr h)]

theorem Channel.selectEdge_of_selects
    (h : ¬ (cfg.csMode = .transition ∧ selectedSense cfg.csActiveLow l = x.sel))
    (hsense : selectedSense cfg.csActiveLow l = true) :
    x.selectEdge cfg l = { x with sel := true, acc := 0, cnt := 0 } := by
  rw [Channel.selectEdge, if_neg (mt csIgnored_iff.mp h), if_pos hsense]

theorem Channel.selectEdge_of_deselects
    (h : ¬ (cfg.csMode = .transition ∧ selectedSense cfg.csActiveLow l = x.sel))
    (hsense : selectedSense cfg.csActiveLow l = false) :
    x.selectEdge cfg l = { x with sel := false }.latch cfg.dispFeedMask := by
  rw [Channel.selectEdge, if_neg (mt csIgnored_iff.mp h), if_neg (by rw [hsense]; exact Bool.false_ne_true)]

end

section
variable {n : Nat} (mask : Word) {x : Channel n}

theorem Channel.latch_of_ctrlLen (h : x.cnt = ctrlLen) :
    x.latch mask = x.setCtrlFilter (x.ctrlFilter.feed (x.acc.setWidth 8)) := by
  rw [Channel.latch, if_pos h, BitVec.setWidth_eq_extractLsb' (by decide)]

theorem Channel.latch_of_dispLen (h : x.cnt = dispLen) :
    x.latch mask = x.setDispFilter (x.dispFilter.feed (x.acc &&& mask)) := by
  rw [Channel.latch, if_neg (by rw [h]; decide), if_pos h]

/-- A frame of any other length is a glitch (R127). -/
theorem Channel.latch_of_glitch (h8 : x.cnt ≠ ctrlLen) (h24 : x.cnt ≠ dispLen) : x.latch mask = x := by
  rw [Channel.latch, if_neg h8, if_neg h24]

end

/-- Deselecting after a glitch clears `sel` and does nothing else (R127). -/
theorem Channel.selectEdge_of_glitch {n : Nat} {cfg : Config} {l : Bit} {x : Channel n}
    (h : ¬ (cfg.csMode = .transition ∧ selectedSense cfg.csActiveLow l = x.sel))
    (hsense : selectedSense cfg.csActiveLow l = false) (h8 : x.cnt ≠ ctrlLen) (h24 : x.cnt ≠ dispLen) :
    x.selectEdge cfg l = { x with sel := false } :=
  (Channel.selectEdge_of_deselects h hsense).trans (Channel.latch_of_glitch _ h8 h24)

/-! ### What changes a register -/

/-- The rings and the visible values of a channel are those of the other: its two filters are (R104). -/
def Channel.SameRegisters {n : Nat} (x y : Channel n) : Prop :=
  x.ctrlFilter = y.ctrlFilter ∧ x.dispFilter = y.dispFilter

theorem Channel.sameRegisters_iff {n : Nat} {x y : Channel n} :
    x.SameRegisters y ↔ x.cring = y.cring ∧ x.cvis = y.cvis ∧ x.dring = y.dring ∧ x.dvis = y.dvis := by
  simp only [Channel.SameRegisters, Channel.ctrlFilter, Channel.dispFilter, Filter.mk.injEq, and_assoc]

theorem Channel.tick_sameRegisters {n : Nat} (d : Bit) (x : Channel n) : (x.tick d).SameRegisters x :=
  ⟨x.tick_ctrlFilter d, x.tick_dispFilter d⟩

/-- A chip-select edge that changes a register latches a frame of 8 or 24 bits (R128). -/
theorem Channel.selectEdge_latches_of_not_sameRegisters {n : Nat} {cfg : Config} {l : Bit} {x : Channel n}
    (h : ¬ (x.selectEdge cfg l).SameRegisters x) :
    selectedSense cfg.csActiveLow l = false ∧ (x.cnt = ctrlLen ∨ x.cnt = dispLen)
      ∧ (cfg.csMode = .transition → x.sel = true) := by
  have hacts : ¬ (cfg.csMode = .transition ∧ selectedSense cfg.csActiveLow l = x.sel) := fun hignored =>
    h (by rw [Channel.selectEdge_of_ignored hignored]; exact ⟨rfl, rfl⟩)
  have hsense : selectedSense cfg.csActiveLow l = false := Bool.eq_false_iff.mpr fun hselects =>
    h (by rw [Channel.selectEdge_of_selects hacts hselects]; exact ⟨rfl, rfl⟩)
  refine ⟨hsense, ?_, fun hmode => ?_⟩
  · by_contra hlen
    obtain ⟨h8, h24⟩ := not_or.mp hlen
    exact h (by rw [Channel.selectEdge_of_glitch hacts hsense h8 h24]; exact ⟨rfl, rfl⟩)
  · simpa [hmode, hsense] using hacts

/-- Settles O13: of what an operation does to a channel, a tick changes no register, and a chip-select edge only by
latching. -/
theorem registersChangeOnlyAtADeselect : Obligations.RegistersChangeOnlyAtADeselect := by
  intro cfg i s t c hexec hchanged
  have hregs : ¬ (t.chan c).SameRegisters (s.chan c) := by
    simpa only [Channel.sameRegisters_iff, not_and_or] using hchanged
  rcases execWith_chan cfg i hexec c with ⟨d, _, ht⟩ | ⟨l, hi, ht⟩ | ⟨_, _, ht⟩
  · exact absurd (ht ▸ Channel.tick_sameRegisters d _) hregs
  · exact ⟨l, hi, Channel.selectEdge_latches_of_not_sameRegisters (ht ▸ hregs)⟩
  · exact absurd (ht ▸ ⟨rfl, rfl⟩) hregs

/-! ### CLK, CS and the latch -/

/-- Settles O8: a tick is its two cases, and the words of op 1 are accepted by their mask. -/
theorem clkShiftsIntoSelectedChannels : Obligations.ClkShiftsIntoSelectedChannels :=
  ⟨fun _ _ => rfl, fun _ => decode_clk_of_masked, fun _ hop hres => ⟨_, decode_clk_reserved hop hres⟩⟩

/-- Settles O9: an edge is ignored, selects or deselects by the sense of its level. -/
theorem csActsOnItsChannel : Obligations.CsActsOnItsChannel := by
  refine ⟨?_, fun c l s => exec_eq_execWith_hardware _ s, fun w h => ?_,
    fun w hop hres => ⟨_, decode_cs_reserved hop hres⟩⟩
  · intro cfg c l s sense hsense
    obtain rfl : sense = selectedSense cfg.csActiveLow l := hsense
    refine ⟨fun hmode hsel => ?_, fun hacts hselects => ?_, fun hacts hdeselects => ?_⟩
    · rw [execWith_cs, Channel.selectEdge_of_ignored ⟨hmode, hsel⟩, State.setChan_chan]
    · rw [execWith_cs, Channel.selectEdge_of_selects hacts hselects]
    · rw [execWith_cs, Channel.selectEdge_of_deselects hacts hdeselects]
  · rw [decode_cs_of_masked h, bit1, Chan.ofBit_extractLsb', bit0]

/-- Settles O11: a selected channel's deselect latches, and a latch feeds by the count that it finds. -/
theorem latchFeedsByCount : Obligations.LatchFeedsByCount := by
  refine ⟨fun cfg c l s hsel hsense h8 h24 => ?_, fun n mask x => ⟨?_, ?_, ?_⟩⟩
  · have hacts : ¬ (cfg.csMode = .transition ∧ selectedSense cfg.csActiveLow l = (s.chan c).sel) := by
      simp [hsel, hsense]
    rw [execWith_cs, Channel.selectEdge_of_glitch hacts hsense h8 h24]
  · exact Channel.latch_of_ctrlLen mask
  · exact Channel.latch_of_dispLen mask
  · exact Channel.latch_of_glitch mask

end Sys2Proof.Machine
end

section
/-! The register decoder (42_register_decoder.md): the words of DBANK.H, the hexadecimal table, and `decodeBank` of an
input of any width. -/

namespace Sys2Proof

theorem decode_of_op_dbankH {w : Byte} (h : w.extractLsb' 4 4 = 0x5) :
    decode w = acceptIf w 0xF0 0x50 (.dbankH (lowNibble w)) := by
  rw [decode, h]; rfl

theorem decode_dbankH_of_masked {w : Byte} (h : w &&& 0xF0 = 0x50) : decode w = .ok (.dbankH (lowNibble w)) := by
  rw [decode_of_op_dbankH (extractLsb'_of_masked h 4 4 (by decide)), acceptIf_of_masked h]

end Sys2Proof

namespace Sys2Proof.Machine

theorem decodeBank_special (cfg : Config) (n : Nibble) : decodeBank cfg n true = cfg.specialTable n := rfl

theorem decodeBank_hex (cfg : Config) (n : Nibble) : decodeBank cfg n false = hexTable n := rfl

/-- The hexadecimal table in the order of its entries (R151): the codes of '0' to '9', then of 'A' to 'F'. -/
theorem hexTable_eq_getElem? (n : Nibble) :
    some (hexTable n) = [(0x30 : Byte), 0x31, 0x32, 0x33, 0x34, 0x35, 0x36, 0x37, 0x38, 0x39,
      0x41, 0x42, 0x43, 0x44, 0x45, 0x46][n.toNat]? := by
  revert n; decide

/-- Masking to the low 4 bits is reducing modulo 16 (R155). -/
theorem setWidth_four_eq_ofNat_mod {w : Nat} (v : BitVec w) : v.setWidth 4 = BitVec.ofNat 4 (v.toNat % 16) := by
  apply BitVec.eq_of_toNat_eq
  rw [BitVec.toNat_setWidth, BitVec.toNat_ofNat, Nat.mod_mod]

theorem decodeBankOf_eq_decodeBank_mod (cfg : Config) {w : Nat} (v : BitVec w) (special : Bool) :
    decodeBankOf cfg v special = decodeBank cfg (BitVec.ofNat 4 (v.toNat % 16)) special := by
  rw [decodeBankOf, setWidth_four_eq_ofNat_mod]

/-- Settles O32: DBANK.H drives `decodeBank` of its nibble, which is the hexadecimal table's entry, and the words of
op 5 are accepted by their mask. -/
theorem dbankHLooksUpTheHexTable : Obligations.DbankHLooksUpTheHexTable := by
  refine ⟨fun n s => rfl, fun cfg n => ?_, fun w => decode_dbankH_of_masked⟩
  rw [decodeBank_hex]
  exact hexTable_eq_getElem? n

/-- Settles O34: the flag selects the table, and a wider input is reduced before the look-up. -/
theorem decodeBankMasksItsInput : Obligations.DecodeBankMasksItsInput := by
  intro cfg w v n
  refine ⟨decodeBank_special cfg n, decodeBank_hex cfg n, ?_, ?_⟩
  · rw [decodeBankOf_eq_decodeBank_mod, decodeBank_special]
  · rw [decodeBankOf_eq_decodeBank_mod, decodeBank_hex]

end Sys2Proof.Machine
end

section
/-! The formatter (43_formatter.md): which words are FTIME and FSTATE, and the tests of `formatTime`, one lemma for each
outcome. -/

namespace Sys2Proof

theorem decode_of_op_ftime {w : Byte} (h : w.extractLsb' 4 4 = 0x9) : decode w = acceptIf w 0xFF 0x90 .ftime := by
  rw [decode, h]; rfl

theorem decode_of_op_fstate {w : Byte} (h : w.extractLsb' 4 4 = 0xA) : decode w = acceptIf w 0xFF 0xA0 .fstate := by
  rw [decode, h]; rfl

/-- An operation without operands accepts no word with a bit of `arg` set (R79). -/
theorem acceptIf_of_arg_ne_zero {w pattern : Byte} (harg : w.extractLsb' 0 4 ≠ 0)
    (hpattern : pattern.extractLsb' 0 4 = 0) (i : Instr) : acceptIf w 0xFF pattern i = .error .reservedArg :=
  acceptIf_of_not_masked (fun h => harg ((extractLsb'_of_masked h 0 4 (by decide)).trans hpattern)) i

end Sys2Proof

namespace Sys2Proof.Machine

/-- Settles O38: FTIME drives `formatTime` of the left chip, and the one word of op 9 is the one whose `arg` is 0. -/
theorem ftimeFormatsTheLeftChip : Obligations.FtimeFormatsTheLeftChip := by
  refine ⟨fun s => rfl, rfl, fun w hop harg => ⟨.reservedArg, ?_⟩⟩
  rw [decode_of_op_ftime hop, acceptIf_of_arg_ne_zero harg (by decide)]

/-- Settles O41: FSTATE drives `formatState` of both chips, and the one word of op 0xA is the one whose `arg` is 0. -/
theorem fstateFormatsBothChips : Obligations.FstateFormatsBothChips := by
  refine ⟨fun s => rfl, rfl, fun w hop harg => ⟨.reservedArg, ?_⟩⟩
  rw [decode_of_op_fstate hop, acceptIf_of_arg_ne_zero harg (by decide)]

/-! ### The tests of `formatTime` (R172) -/

theorem formatTime_of_off (cfg : Config) {ctrl : Byte} (disp : Word) (h : ctrl.getLsbD 0 = false) :
    formatTime cfg ctrl disp = label " " := by
  rw [formatTime, if_pos (isOff_of_clear h)]

theorem formatTime_of_on (cfg : Config) {ctrl : Byte} (disp : Word) (h : ctrl.getLsbD 0 = true) :
    formatTime cfg ctrl disp = timeText (decodeDisplay cfg disp ctrl) := by
  rw [formatTime, isOff_of_set h, if_neg Bool.false_ne_true]

section
variable {t : Chars}

theorem timeText_of_fault (h0 : t.c0 = dash) : timeText t = label "---" := by
  rw [timeText, if_pos h0]

theorem timeText_of_blank (h0 : t.c0 ≠ dash) (h2 : t.c2 = space) : timeText t = label " " := by
  rw [timeText, if_neg h0, if_pos h2]

theorem timeText_of_hour (h0 : t.c0 ≠ dash) (h2 : t.c2 ≠ space) (hhour : t.c0 ≠ space) :
    timeText t = [t.c0] ++ label "h " ++ nonBlank [t.c1, t.c2] ++ label "m" := by
  rw [timeText, if_neg h0, if_neg h2, if_pos hhour]

/-- A blank first character is no '-', so this case needs no test for a fault. -/
theorem timeText_of_no_hour (h2 : t.c2 ≠ space) (hhour : t.c0 = space) :
    timeText t = nonBlank [t.c1, t.c2] ++ label " min" := by
  have h0 : t.c0 ≠ dash := by rw [hhour]; decide
  rw [timeText, if_neg h0, if_neg h2, if_neg (not_not_intro hhour)]

end

theorem nonBlank_eq_filter_decide (cs : List Byte) : nonBlank cs = cs.filter (fun c => decide (c ≠ space)) :=
  List.filter_congr fun c _ => by rw [Bool.eq_iff_iff, bne_iff_ne, decide_eq_true_iff]

theorem label_single_space : label " " = [0x20] := by decide

theorem label_fault_dashes : label "---" = [0x2D, 0x2D, 0x2D] := by decide

theorem label_hour_unit : label "h " = [0x68, 0x20] := by decide

theorem label_minute_unit : label "m" = [0x6D] := by decide

theorem label_minutes_only_unit : label " min" = [0x20, 0x6D, 0x69, 0x6E] := by decide

/-- Settles O39: off first, then the tests of `timeText` in their order, each outcome with the bytes of its labels. -/
theorem formatTimeTestsInOrder : Obligations.FormatTimeTestsInOrder := by
  rintro cfg ctrl disp t digits rfl hdigits
  have hrest := (nonBlank_eq_filter_decide _).trans hdigits.symm
  refine ⟨fun hoff => ?_, fun hon h0 => ?_, fun hon h0 h2 => ?_, fun hon h0 h2 hhour => ?_, fun hon h2 hhour => ?_⟩
  · rw [formatTime_of_off cfg disp hoff, label_single_space]
  · rw [formatTime_of_on cfg disp hon, timeText_of_fault h0, label_fault_dashes]
  · rw [formatTime_of_on cfg disp hon, timeText_of_blank h0 h2, label_single_space]
  · rw [formatTime_of_on cfg disp hon, timeText_of_hour h0 h2 hhour, label_hour_unit, hrest, label_minute_unit]
    rfl
  · rw [formatTime_of_on cfg disp hon, timeText_of_no_hour h2 hhour, hrest, label_minutes_only_unit]

end Sys2Proof.Machine
end

section
/-! Exceptions (60_exceptions.md): every operation completes, so that a step stops only at a reserved word. -/

namespace Sys2Proof.Machine

/-- Every operation of the machine completes (R200). -/
theorem exec_completes (i : Instr) (s : State) : ∃ t, exec i s = .next t := by
  rw [exec_eq_execWith_hardware]
  exact execWith_completes Config.hardware i s

/-- Settles O6: a step changes nothing, runs an operation, which completes, or refuses the word it takes. -/
theorem onlyReservedWordsStop : Obligations.OnlyReservedWordsStop := by
  refine ⟨exec_completes, fun s => ?_⟩
  rcases stepBy_cases exec s with ⟨_, hidle⟩ | ⟨w, rest, i, _, _, hrun⟩ | hrefused
  · exact .inl ⟨s, hidle⟩
  · obtain ⟨t, ht⟩ := exec_completes i (s.advance rest)
    exact .inl ⟨t, hrun.trans ht⟩
  · exact .inr hrefused

end Sys2Proof.Machine
end

section
/-! The encoding (30_encoding.md): the encoder and the decoder undo each other, the layout of a word, the reserved
words, and the words of the queries that name a channel. -/

namespace Sys2Proof

/-- The word of an operation decodes to it and is its fields at their places (R70, R71). -/
theorem encode_decodes_and_layout (i : Instr) : decode (encode i) = .ok i ∧ encode i = layout i.op i.fields := by
  cases i with
  | clk d => revert d; decide
  | cs c l => revert l; cases c <;> decide
  | rdc ch => cases ch <;> decide
  | rdd ch => cases ch <;> decide
  | dbankH n => revert n; decide
  | dbankS n => revert n; decide
  | ddisp ch => cases ch <;> decide
  | isoff ch => cases ch <;> decide
  | ftime => decide
  | fstate => decide

theorem decode_encode (i : Instr) : decode (encode i) = .ok i := (encode_decodes_and_layout i).1

theorem encode_eq_layout (i : Instr) : encode i = layout i.op i.fields := (encode_decodes_and_layout i).2

theorem encode_of_decode {w : Byte} {i : Instr} (h : decode w = .ok i) : encode i = w := by
  have hword : ∀ v : Byte, (decode v).toOption.all (fun j => encode j == v) = true := by decide
  have hw := hword w
  rw [h] at hw
  exact beq_iff_eq.mp hw

/-- Every operation's operands fit (R71) and its word is no reserved one (R79). -/
theorem definedWord (i : Instr) : Laws.DefinedWord.Statement i := by
  cases i with
  | clk d => exact Laws.DefinedWord.clk d
  | cs c l => exact Laws.DefinedWord.cs c l
  | rdc ch => exact Laws.DefinedWord.rdc ch
  | rdd ch => exact Laws.DefinedWord.rdd ch
  | dbankH n => exact Laws.DefinedWord.dbankH n
  | dbankS n => exact Laws.DefinedWord.dbankS n
  | ddisp ch => exact Laws.DefinedWord.ddisp ch
  | isoff ch => exact Laws.DefinedWord.isoff ch
  | ftime => exact Laws.DefinedWord.ftime
  | fstate => exact Laws.DefinedWord.fstate

/-- Settles O1: decoding undoes encoding operation by operation, encoding undoes decoding word by word, and the layout
holds operation by operation. -/
theorem decodeAndEncodeAgree : Obligations.DecodeAndEncodeAgree :=
  ⟨decode_encode, fun _ _ => encode_of_decode, fun i => ⟨encode_eq_layout i, (definedWord i).1⟩⟩

/-! ### Reserved words -/

theorem decode_error_iff_reservedWord (w : Byte) : (∃ why, decode w = .error why) ↔ reservedWord w = true := by
  have hw := decode_isOk w
  constructor
  · rintro ⟨why, h⟩
    rw [h] at hw
    simpa [Except.isOk, Except.toBool] using hw
  · intro hres
    cases hd : decode w with
    | ok i => rw [hd, hres] at hw; cases hw
    | error why => exact ⟨why, rfl⟩

/-- Settles O2: a word is refused exactly if it is reserved, and the words that are not reserved are counted. -/
theorem reservedWordsAreRejected : Obligations.ReservedWordsAreRejected := by
  refine ⟨decode_error_iff_reservedWord, ?_⟩
  simp only [decode_isOk]
  decide

/-- Settles O3: each of the twelve words decodes by evaluation. -/
theorem sampleWordsDecode : Obligations.SampleWordsDecode := by
  unfold Obligations.SampleWordsDecode
  decide

/-! ### The rows of the decoder that name a channel, and DBANK.S (R74) -/

section
variable {w : Byte}

theorem decode_of_op_rdc (h : w.extractLsb' 4 4 = 0x3) :
    decode w = acceptIf w 0xFE 0x30 (.rdc (Chan.ofBit (bit0 w))) := by rw [decode, h]; rfl

theorem decode_of_op_rdd (h : w.extractLsb' 4 4 = 0x4) :
    decode w = acceptIf w 0xFE 0x40 (.rdd (Chan.ofBit (bit0 w))) := by rw [decode, h]; rfl

theorem decode_of_op_dbankS (h : w.extractLsb' 4 4 = 0x6) :
    decode w = acceptIf w 0xF0 0x60 (.dbankS (lowNibble w)) := by rw [decode, h]; rfl

theorem decode_of_op_ddisp (h : w.extractLsb' 4 4 = 0x7) :
    decode w = acceptIf w 0xFE 0x70 (.ddisp (Chan.ofBit (bit0 w))) := by rw [decode, h]; rfl

theorem decode_of_op_isoff (h : w.extractLsb' 4 4 = 0x8) :
    decode w = acceptIf w 0xFE 0x80 (.isoff (Chan.ofBit (bit0 w))) := by rw [decode, h]; rfl

/-- The row of an operation with one channel operand accepts the words of its pattern, and bit 0 names the channel. -/
theorem acceptIf_chan_of_masked {pattern : Byte} (h : w &&& 0xFE = pattern) (f : Chan → Instr) :
    acceptIf w 0xFE pattern (f (Chan.ofBit (bit0 w))) = .ok (f (if w.getLsbD 0 then .right else .left)) := by
  rw [acceptIf_of_masked h, bit0, Chan.ofBit_extractLsb']

/-- The row of an operation with one channel operand accepts no word with one of bits 3:1 set (R79). -/
theorem acceptIf_chan_reserved {pattern : Byte} (hres : w.extractLsb' 1 3 ≠ 0) (hpattern : pattern.extractLsb' 1 3 = 0)
    (i : Instr) : acceptIf w 0xFE pattern i = .error .reservedArg :=
  acceptIf_of_not_masked (fun h => hres ((extractLsb'_of_masked h 1 3 (by decide)).trans hpattern)) i

theorem decode_rdc_of_masked (h : w &&& 0xFE = 0x30) :
    decode w = .ok (.rdc (if w.getLsbD 0 then .right else .left)) := by
  rw [decode_of_op_rdc (extractLsb'_of_masked h 4 4 (by decide)), acceptIf_chan_of_masked h]

theorem decode_rdd_of_masked (h : w &&& 0xFE = 0x40) :
    decode w = .ok (.rdd (if w.getLsbD 0 then .right else .left)) := by
  rw [decode_of_op_rdd (extractLsb'_of_masked h 4 4 (by decide)), acceptIf_chan_of_masked h]

theorem decode_dbankS_of_masked (h : w &&& 0xF0 = 0x60) : decode w = .ok (.dbankS (lowNibble w)) := by
  rw [decode_of_op_dbankS (extractLsb'_of_masked h 4 4 (by decide)), acceptIf_of_masked h]

theorem decode_ddisp_of_masked (h : w &&& 0xFE = 0x70) :
    decode w = .ok (.ddisp (if w.getLsbD 0 then .right else .left)) := by
  rw [decode_of_op_ddisp (extractLsb'_of_masked h 4 4 (by decide)), acceptIf_chan_of_masked h]

theorem decode_isoff_of_masked (h : w &&& 0xFE = 0x80) :
    decode w = .ok (.isoff (if w.getLsbD 0 then .right else .left)) := by
  rw [decode_of_op_isoff (extractLsb'_of_masked h 4 4 (by decide)), acceptIf_chan_of_masked h]

end

end Sys2Proof
end

section
/-! The consensus filter (40_consensus_filter.md): a full unanimous window is a window of equal latest pushes, what a
history of feeds shows, the debounce latency, and the invariant of a filter. -/

namespace Sys2Proof.Machine

open Sys2Proof.Safety

/-! ### The window as the latest pushes -/

section
variable {n w : Nat}

/-- Every slot holds one of the `n` latest pushes. -/
theorem RingBuffer.exists_latestSlot_eq (r : RingBuffer n w) (i : Fin n) : ∃ j < n, r.latestSlot j = i := by
  have hhead := r.head.isLt
  have hi := i.isLt
  rcases Nat.lt_or_ge i.val r.head.val with hlt | hge
  · refine ⟨r.head.val - 1 - i.val, by omega, Fin.ext ?_⟩
    calc (r.head.val + (n - 1 - (r.head.val - 1 - i.val))) % n
        = (i.val + n) % n := by congr 1; omega
      _ = i.val := by rw [Nat.add_mod_right, Nat.mod_eq_of_lt hi]
  · refine ⟨r.head.val + n - 1 - i.val, by omega, Fin.ext ?_⟩
    calc (r.head.val + (n - 1 - (r.head.val + n - 1 - i.val))) % n
        = i.val % n := by congr 1; omega
      _ = i.val := Nat.mod_eq_of_lt hi

theorem RingBuffer.forall_slot_eq_iff (r : RingBuffer n w) (v : BitVec w) :
    (∀ i : Fin n, r.slots[i] = v) ↔ ∀ j < n, r.latest j = v := by
  refine ⟨fun h j _ => h (r.latestSlot j), fun h i => ?_⟩
  obtain ⟨j, hj, rfl⟩ := r.exists_latestSlot_eq i
  exact h j hj

/-- After a push of `v`, the window is unanimous exactly if all of the latest pushes are `v` (R104). -/
theorem RingBuffer.unanimous_push_iff (r : RingBuffer n w) (v : BitVec w) :
    (r.push v).unanimous ↔ ∀ j < n, (r.push v).latest j = v := by
  rw [← RingBuffer.forall_slot_eq_iff]
  exact ⟨r.unanimous_push_slot v, fun h i j => (h i).trans (h j).symm⟩

theorem RingBuffer.size_foldl_push_add (r : RingBuffer n w) (vs : List (BitVec w)) :
    (vs.foldl RingBuffer.push r).size.val = min (r.size.val + vs.length) n := by
  induction vs using List.reverseRecOn with
  | nil => have := r.size_le; simp only [List.foldl_nil, List.length_nil]; omega
  | append_singleton vs v ih =>
    rw [List.foldl_concat, RingBuffer.push_size, ih, List.length_append, List.length_singleton]
    omega

/-- Pushes move what the window held before them that many slots further from `head`. -/
theorem RingBuffer.latest_foldl_push_add (r : RingBuffer n w) (vs : List (BitVec w)) {j : Nat}
    (hj : j + vs.length < n) : (vs.foldl RingBuffer.push r).latest (j + vs.length) = r.latest j := by
  induction vs using List.reverseRecOn with
  | nil => rfl
  | append_singleton vs v ih =>
    rw [List.length_append, List.length_singleton, ← Nat.add_assoc] at hj ⊢
    rw [List.foldl_concat, RingBuffer.push_latest_succ _ _ hj, ih (by omega)]

end

/-! ### The value that a history of feeds shows (R104, R105) -/

theorem take_eq_replicate_iff {α : Type} {l : List α} {n : Nat} {a : α} :
    l.take n = List.replicate n a ↔ ∀ j < n, l[j]? = some a := by
  constructor
  · intro h j hj
    rw [← List.getElem?_take_of_lt hj, h, List.getElem?_replicate_of_lt hj]
  · intro h
    refine List.ext_getElem? fun j => ?_
    rcases Nat.lt_or_ge j n with hj | hj
    · rw [List.getElem?_take_of_lt hj, h j hj, List.getElem?_replicate_of_lt hj]
    · rw [List.getElem?_eq_none (by simp [hj]), List.getElem?_eq_none (by simp [hj])]

/-- The consensus test after pushes from reset, the latest of them `v`: the last `n` pushes are all `v`. -/
theorem RingBuffer.consensus_iff {n w : Nat} (h : 0 < n) (vs : List (BitVec w)) (v : BitVec w) :
    ((((vs.foldl RingBuffer.push (RingBuffer.empty n w h)).push v).full
      ∧ ((vs.foldl RingBuffer.push (RingBuffer.empty n w h)).push v).unanimous))
      ↔ (v :: vs.reverse).take n = List.replicate n v := by
  have hpush : (vs.foldl RingBuffer.push (RingBuffer.empty n w h)).push v
      = (vs ++ [v]).foldl RingBuffer.push (RingBuffer.empty n w h) :=
    (List.foldl_concat ..).symm
  have hlatest := RingBuffer.latest_foldl_push (RingBuffer.empty n w h) (vs ++ [v])
  rw [RingBuffer.unanimous_push_iff, RingBuffer.full, hpush, RingBuffer.size_foldl_push, take_eq_replicate_iff,
    ← List.reverse_concat]
  constructor
  · rintro ⟨hfull, hall⟩ j hj
    rw [← hlatest j (by omega) hj, hall j hj]
  · intro hall
    have hlen : n ≤ (vs ++ [v]).length := by
      have := (List.getElem?_eq_some_iff.mp (hall (n - 1) (by omega))).1
      rw [List.length_reverse] at this
      omega
    exact ⟨by omega, fun j hj => Option.some.inj ((hlatest j (by omega) hj).trans (hall j hj))⟩

theorem followsFeeds_empty {n w : Nat} (h : 0 < n) (init : BitVec w) :
    FollowsFeeds h init (Filter.empty n w h init) [] := ⟨rfl, rfl⟩

/-- A feed keeps a filter agreeing with its history. -/
theorem followsFeeds_feed {n w : Nat} {h : 0 < n} {init : BitVec w} {f : Filter n w} {vs : List (BitVec w)}
    (hf : FollowsFeeds h init f vs) (v : BitVec w) : FollowsFeeds h init (f.feed v) (vs ++ [v]) := by
  obtain ⟨hring, hvis⟩ := hf
  refine ⟨by rw [Filter.feed_ring, hring, List.foldl_concat], ?_⟩
  rw [Filter.feed_vis, List.reverse_concat, lastConfirmed, hring, hvis]
  simp only [RingBuffer.consensus_iff]

theorem followsFeeds_foldl_feed {n w : Nat} (h : 0 < n) (init : BitVec w) (vs : List (BitVec w)) :
    FollowsFeeds h init (vs.foldl Filter.feed (Filter.empty n w h init)) vs := by
  induction vs using List.reverseRecOn with
  | nil => exact followsFeeds_empty h init
  | append_singleton vs v ih => rw [List.foldl_concat]; exact followsFeeds_feed ih v

/-- Settles O21: every feed keeps the filter agreeing with the history of feeds. -/
theorem filterShowsTheLastConfirmedValue : Obligations.FilterShowsTheLastConfirmedValue :=
  fun _ _ h init vs => (followsFeeds_foldl_feed h init vs).2

/-! ### Debounce (R108) -/

theorem Filter.foldl_feed_ring {n w : Nat} (f : Filter n w) (vs : List (BitVec w)) :
    (vs.foldl Filter.feed f).ring = vs.foldl RingBuffer.push f.ring := by
  induction vs using List.reverseRecOn with
  | nil => rfl
  | append_singleton vs v ih => rw [List.foldl_concat, List.foldl_concat, Filter.feed_ring, ih]

theorem RingBuffer.push_foldl_push_replicate {n w : Nat} (r : RingBuffer n w) (k : Nat) (b : BitVec w) :
    ((List.replicate k b).foldl RingBuffer.push r).push b = (List.replicate (k + 1) b).foldl RingBuffer.push r := by
  rw [List.replicate_succ', List.foldl_concat]

/-- Fewer than `n` feeds leave an old push in the window, which dissents if it is no `b`. -/
theorem Filter.foldl_feed_replicate_vis_of_lt {n w : Nat} (f : Filter n w) {b : BitVec w}
    (hb : ∀ i : Fin n, f.ring.slots[i] ≠ b) {k : Nat} (hk : k < n) :
    ((List.replicate k b).foldl Filter.feed f).vis = f.vis := by
  induction k with
  | zero => rfl
  | succ k ih =>
    have hold : ((List.replicate (k + 1) b).foldl RingBuffer.push f.ring).latest (n - 1)
        = f.ring.latest (n - 1 - (k + 1)) := by
      rw [← RingBuffer.latest_foldl_push_add f.ring (List.replicate (k + 1) b) (by simp; omega), List.length_replicate]
      congr 1; omega
    have hdissent : ¬ (((List.replicate k b).foldl RingBuffer.push f.ring).push b).unanimous := by
      rw [RingBuffer.unanimous_push_iff, RingBuffer.push_foldl_push_replicate]
      exact fun hall => hb _ (hold.symm.trans (hall (n - 1) (by omega)))
    rw [List.replicate_succ', List.foldl_concat, Filter.feed_vis, Filter.foldl_feed_ring,
      if_neg (fun hconsensus => hdissent hconsensus.2), ih (by omega)]

/-- `n` feeds of `b` fill the window with it. -/
theorem Filter.foldl_feed_replicate_vis {n w : Nat} (f : Filter n w) (b : BitVec w) :
    ((List.replicate n b).foldl Filter.feed f).vis = b := by
  obtain ⟨m, rfl⟩ : ∃ m, n = m + 1 := Nat.exists_eq_succ_of_ne_zero f.ring.capacity_pos.ne'
  have hfull : (((List.replicate m b).foldl RingBuffer.push f.ring).push b).full := by
    rw [RingBuffer.full, RingBuffer.push_foldl_push_replicate, RingBuffer.size_foldl_push_add, List.length_replicate]
    omega
  have hall : (((List.replicate m b).foldl RingBuffer.push f.ring).push b).unanimous := by
    rw [RingBuffer.unanimous_push_iff, RingBuffer.push_foldl_push_replicate]
    intro j hj
    have hj' := RingBuffer.latest_foldl_push f.ring (List.replicate (m + 1) b) j (by simpa using hj) hj
    rw [List.reverse_replicate, List.getElem?_replicate_of_lt hj] at hj'
    exact Option.some.inj hj'
  rw [List.replicate_succ', List.foldl_concat, Filter.feed_vis, Filter.foldl_feed_ring, if_pos ⟨hfull, hall⟩]

/-- Settles O22: before `n` feeds an older push dissents, and `n` feeds make the window full and unanimous. -/
theorem debounceTakesAFullWindow : Obligations.DebounceTakesAFullWindow :=
  fun _ _ f b => ⟨fun _ hk hb => f.foldl_feed_replicate_vis_of_lt hb hk, f.foldl_feed_replicate_vis b⟩

/-! ### A feed that changes what shows, and the invariant of a filter -/

section
variable {n w : Nat} {f : Filter n w} {v : BitVec w}

/-- A feed changes what shows only to the value fed, which is then in every slot of a full window (R104). -/
theorem Filter.confirmed_of_feed_vis_ne (h : (f.feed v).vis ≠ f.vis) :
    (f.feed v).vis = v ∧ (f.feed v).ring.full ∧ ∀ i : Fin n, (f.feed v).ring.slots[i] = v := by
  rw [Filter.feed_vis] at h ⊢
  by_cases hconsensus : (f.ring.push v).full ∧ (f.ring.push v).unanimous
  · exact ⟨if_pos hconsensus, hconsensus.1, f.ring.unanimous_push_slot v hconsensus.2⟩
  · exact absurd (if_neg hconsensus) h

theorem filterInv_empty (h : 0 < n) (init : BitVec w) : FilterInv init (Filter.empty n w h init) := by
  refine ⟨fun _ => ⟨rfl, rfl, fun i _ => ?_⟩, fun hfull => ?_⟩
  · simp [Filter.empty, RingBuffer.empty]
  · exact absurd hfull h.ne

/-- A feed keeps a filter's invariant. While the window fills, the push writes the first slot not yet written; once it
is full, the invariant is the consensus rule. -/
theorem filterInv_feed {init : BitVec w} (hf : FilterInv init f) (v : BitVec w) : FilterInv init (f.feed v) := by
  refine ⟨fun hfilling => ?_, fun hfull hall i => ?_⟩
  · rw [Filter.feed_ring, RingBuffer.push_size] at hfilling
    have hsize : (f.feed v).ring.size.val = f.ring.size.val + 1 := by
      rw [Filter.feed_ring, RingBuffer.push_size]; omega
    obtain ⟨hhead, hvis, hslots⟩ := hf.1 (by omega)
    have hnotFull : ¬ (f.ring.push v).full := by rw [RingBuffer.full, RingBuffer.push_size]; omega
    refine ⟨?_, ?_, fun i hi => ?_⟩
    · rw [hsize, Filter.feed_ring, RingBuffer.push_head, hhead, Nat.mod_eq_of_lt (by omega)]
    · rw [Filter.feed_vis, if_neg (fun hconsensus => hnotFull hconsensus.1), hvis]
    · rw [hsize] at hi
      have hne : f.ring.head ≠ i := fun heq => by rw [← heq] at hi; omega
      rw [Filter.feed_ring, RingBuffer.push_slot, if_neg hne, hslots i (by omega)]
  · rw [Filter.feed_vis, if_pos ⟨hfull, hall⟩]
    exact (f.ring.unanimous_push_slot v hall i).symm

end

end Sys2Proof.Machine
end

section
/-! What an operation does to one channel (41_chip_decoder.md): its effect on the registers as a function of that
channel alone, and which filter it feeds. -/

namespace Sys2Proof.Machine

open Sys2Proof.Safety

/-! ### The effect of an operation on a channel -/

/-- The registers of channel `c` after an operation, from its registers before: the clock ticks it, its own chip-select
edges act on it, and nothing else does (R121, R123, R211). -/
def chanAfter (cfg : Config) (c : Chan) (x : Channel votes) : Instr → Channel votes
  | .clk d => x.tick d
  | .cs c' l => if c' = c then x.selectEdge cfg l else x
  | _ => x

theorem chanAfter_clk (cfg : Config) (c : Chan) (x : Channel votes) (d : Bit) :
    chanAfter cfg c x (.clk d) = x.tick d := rfl

theorem chanAfter_cs (cfg : Config) (c : Chan) (x : Channel votes) (l : Bit) :
    chanAfter cfg c x (.cs c l) = x.selectEdge cfg l := if_pos rfl

theorem chanAfter_cs_of_ne (cfg : Config) {c c' : Chan} (h : c' ≠ c) (x : Channel votes) (l : Bit) :
    chanAfter cfg c x (.cs c' l) = x := if_neg h

theorem chanAfter_query (cfg : Config) (c : Chan) (x : Channel votes) {i : Instr} (hi : i.isInput = false) :
    chanAfter cfg c x i = x := by
  cases i with
  | clk d => cases hi
  | cs c' l => cases hi
  | _ => rfl

theorem execWith_chan_eq (cfg : Config) (i : Instr) {s t : State} (h : execWith cfg i s = .next t) (c : Chan) :
    t.chan c = chanAfter cfg c (s.chan c) i := by
  rcases execWith_cases cfg i s with ⟨d, rfl, hx⟩ | ⟨c', l, rfl, hx⟩ | ⟨hi, v, hx⟩ <;>
    obtain rfl := Host.Outcome.next.inj (h.symm.trans hx)
  · cases c <;> rfl
  · by_cases hc : c' = c
    · subst hc; rw [State.driveNothing_chan, State.chan_setChan, chanAfter_cs]
    · rw [State.driveNothing_chan, State.chan_setChan_ne _ _ (Ne.symm hc), chanAfter_cs_of_ne cfg hc]
  · rw [State.drive_chan, chanAfter_query cfg c _ hi]

theorem exec_chan_eq {i : Instr} {s t : State} (h : exec i s = .next t) (c : Chan) :
    t.chan c = chanAfter Config.hardware c (s.chan c) i :=
  execWith_chan_eq _ i (exec_eq_execWith_hardware i s ▸ h) c

theorem exec_stream {i : Instr} {s t : State} (h : exec i s = .next t) : t.pending = s.pending ∧ t.index = s.index :=
  execWith_stream _ i (exec_eq_execWith_hardware i s ▸ h)

theorem Chan.ne_other (c : Chan) : c ≠ c.other := by cases c <;> decide

/-! ### Which filter an operation feeds (R124 to R128) -/

section
variable {n : Nat}

theorem Channel.latch_ctrlFilter (mask : Word) (x : Channel n) :
    (x.latch mask).ctrlFilter
      = if x.cnt = ctrlLen then x.ctrlFilter.feed (x.acc.setWidth 8) else x.ctrlFilter := by
  by_cases h8 : x.cnt = ctrlLen
  · rw [Channel.latch_of_ctrlLen mask h8, if_pos h8, Channel.ctrlFilter_setCtrlFilter]
  · rw [if_neg h8]
    by_cases h24 : x.cnt = dispLen
    · rw [Channel.latch_of_dispLen mask h24, Channel.ctrlFilter_setDispFilter]
    · rw [Channel.latch_of_glitch mask h8 h24]

theorem Channel.latch_dispFilter (mask : Word) (x : Channel n) :
    (x.latch mask).dispFilter
      = if x.cnt = dispLen then x.dispFilter.feed (x.acc &&& mask) else x.dispFilter := by
  by_cases h24 : x.cnt = dispLen
  · rw [Channel.latch_of_dispLen mask h24, if_pos h24, Channel.dispFilter_setDispFilter]
  · rw [if_neg h24]
    by_cases h8 : x.cnt = ctrlLen
    · rw [Channel.latch_of_ctrlLen mask h8, Channel.dispFilter_setCtrlFilter]
    · rw [Channel.latch_of_glitch mask h8 h24]

/-- The filters of `y` are those of `x`, but for one feed of the value that the count of `x` names: the low 8 bits of
the accumulator after 8 bits, the masked accumulator after 24. -/
def Channel.FedByCount (mask : Word) (x y : Channel n) : Prop :=
  (y.ctrlFilter = x.ctrlFilter ∨ x.cnt = ctrlLen ∧ y.ctrlFilter = x.ctrlFilter.feed (x.acc.setWidth 8))
  ∧ (y.dispFilter = x.dispFilter ∨ x.cnt = dispLen ∧ y.dispFilter = x.dispFilter.feed (x.acc &&& mask))

theorem Channel.SameRegisters.fedByCount {x y : Channel n} (mask : Word) (h : y.SameRegisters x) :
    Channel.FedByCount mask x y := ⟨.inl h.1, .inl h.2⟩

theorem Channel.latch_fedByCount (mask : Word) (x : Channel n) : Channel.FedByCount mask x (x.latch mask) := by
  refine ⟨?_, ?_⟩
  · rw [Channel.latch_ctrlFilter]
    by_cases h8 : x.cnt = ctrlLen
    · exact .inr ⟨h8, if_pos h8⟩
    · exact .inl (if_neg h8)
  · rw [Channel.latch_dispFilter]
    by_cases h24 : x.cnt = dispLen
    · exact .inr ⟨h24, if_pos h24⟩
    · exact .inl (if_neg h24)

theorem Channel.selectEdge_fedByCount (cfg : Config) (l : Bit) (x : Channel n) :
    Channel.FedByCount cfg.dispFeedMask x (x.selectEdge cfg l) := by
  rcases x.selectEdge_cases cfg l with ⟨_, h⟩ | ⟨_, _, h⟩ | ⟨_, _, h⟩ <;> rw [h]
  · exact Channel.SameRegisters.fedByCount _ ⟨rfl, rfl⟩
  · exact Channel.SameRegisters.fedByCount _ ⟨rfl, rfl⟩
  · exact Channel.latch_fedByCount cfg.dispFeedMask { x with sel := false }

end

theorem chanAfter_fedByCount (cfg : Config) (c : Chan) (x : Channel votes) (i : Instr) :
    Channel.FedByCount cfg.dispFeedMask x (chanAfter cfg c x i) := by
  cases i with
  | clk d => exact (x.tick_sameRegisters d).fedByCount _
  | cs c' l =>
    by_cases hc : c' = c
    · subst hc; rw [chanAfter_cs]; exact x.selectEdge_fedByCount cfg l
    · rw [chanAfter_cs_of_ne cfg hc]; exact Channel.SameRegisters.fedByCount _ ⟨rfl, rfl⟩
  | _ => exact Channel.SameRegisters.fedByCount _ ⟨rfl, rfl⟩

/-! ### Windows and visible registers -/

theorem Filter.ring_eq_or_push {n w : Nat} {f g : Filter n w} {p : Prop} {v : BitVec w}
    (h : g = f ∨ p ∧ g = f.feed v) : g.ring = f.ring ∨ ∃ u, g.ring = f.ring.push u := by
  rcases h with rfl | ⟨_, rfl⟩
  · exact .inl rfl
  · exact .inr ⟨v, f.feed_ring v⟩

theorem RingBuffer.size_le_of_eq_or_push {n w : Nat} {r q : RingBuffer n w} (h : q = r ∨ ∃ v, q = r.push v) :
    r.size.val ≤ q.size.val := by
  rcases h with rfl | ⟨v, rfl⟩
  · exact Nat.le_refl _
  · exact r.size_le_push v

/-- Settles O24: an operation feeds a filter at most once, and a feed pushes its ring. -/
theorem nothingClearsAWindow : Obligations.NothingClearsAWindow := by
  intro cfg i s t c hexec
  obtain ⟨hctrl, hdisp⟩ : Channel.FedByCount cfg.dispFeedMask (s.chan c) (t.chan c) :=
    execWith_chan_eq cfg i hexec c ▸ chanAfter_fedByCount cfg c (s.chan c) i
  have hcring := Filter.ring_eq_or_push hctrl
  have hdring := Filter.ring_eq_or_push hdisp
  exact ⟨hcring, hdring, RingBuffer.size_le_of_eq_or_push hcring, RingBuffer.size_le_of_eq_or_push hdring⟩

/-- Of two filters one feed apart, a changed visible value is the value fed, in every slot of a full window. -/
theorem Filter.confirmed_of_vis_ne {n w : Nat} {f g : Filter n w} {p : Prop} {v : BitVec w}
    (h : g = f ∨ p ∧ g = f.feed v) (hne : g.vis ≠ f.vis) :
    g.vis = v ∧ g.ring.full ∧ ∀ i : Fin n, g.ring.slots[i] = g.vis := by
  rcases h with rfl | ⟨_, rfl⟩
  · exact absurd rfl hne
  · obtain ⟨hvis, hfull, hslots⟩ := Filter.confirmed_of_feed_vis_ne hne
    exact ⟨hvis, hfull, fun i => (hslots i).trans hvis.symm⟩

/-- Settles O23: an operation changes a visible register only by a feed, which shows the value fed once the whole window
agrees on it; this hardware's feed mask keeps every bit. -/
theorem aChangedRegisterIsConfirmed : Obligations.AChangedRegisterIsConfirmed := by
  intro i s t c hexec
  obtain ⟨hctrl, hdisp⟩ : Channel.FedByCount 0xFFFFFFFF (s.chan c) (t.chan c) :=
    exec_chan_eq hexec c ▸ chanAfter_fedByCount Config.hardware c (s.chan c) i
  rw [show (0xFFFFFFFF : Word) = BitVec.allOnes 32 from rfl, BitVec.and_allOnes] at hdisp
  exact ⟨Filter.confirmed_of_vis_ne hctrl, Filter.confirmed_of_vis_ne hdisp⟩

/-! ### The frame of the input events -/

theorem execWith_input_out (cfg : Config) {i : Instr} (hi : i.isInput = true) {s t : State}
    (h : execWith cfg i s = .next t) : t.out = none := by
  rcases execWith_cases cfg i s with ⟨d, _, hx⟩ | ⟨c, l, _, hx⟩ | ⟨hquery, _, _⟩
  · obtain rfl := Host.Outcome.next.inj (h.symm.trans hx); rfl
  · obtain rfl := Host.Outcome.next.inj (h.symm.trans hx); rfl
  · rw [hi] at hquery; cases hquery

section
variable {n : Nat} {cfg : Config} {l : Bit} (x : Channel n)

/-- Deselecting leaves the accumulator and the counter (R123). -/
theorem Channel.selectEdge_frame_of_not_sense (h : selectedSense cfg.csActiveLow l = false) :
    (x.selectEdge cfg l).acc = x.acc ∧ (x.selectEdge cfg l).cnt = x.cnt := by
  rcases x.selectEdge_cases cfg l with ⟨_, hx⟩ | ⟨_, hsense, _⟩ | ⟨_, _, hx⟩
  · rw [hx]; exact ⟨rfl, rfl⟩
  · rw [h] at hsense; cases hsense
  · rw [hx, Channel.latch_acc, Channel.latch_cnt]; exact ⟨rfl, rfl⟩

/-- Selecting writes `sel`, the accumulator and the counter alone (R123). -/
theorem Channel.selectEdge_frame_of_sense (h : selectedSense cfg.csActiveLow l = true) :
    x.selectEdge cfg l = { x with
      sel := (x.selectEdge cfg l).sel, acc := (x.selectEdge cfg l).acc, cnt := (x.selectEdge cfg l).cnt } := by
  rcases x.selectEdge_cases cfg l with ⟨_, hx⟩ | ⟨_, _, hx⟩ | ⟨_, hsense, _⟩
  · rw [hx]
  · rw [hx]
  · rw [h] at hsense; cases hsense

end

/-- Settles O12: a tick and a chip-select edge, by their frames on a channel. -/
theorem inputEventFrame : Obligations.InputEventFrame := by
  refine ⟨fun d s t hexec => ?_, fun c l s t hexec => ?_⟩
  · have hout := execWith_input_out Config.hardware (i := .clk d) rfl hexec
    obtain ⟨hpending, hindex⟩ := exec_stream hexec
    refine ⟨hpending, hindex, hout, fun c => ?_⟩
    rw [exec_chan_eq hexec c, chanAfter_clk]
    exact ⟨Channel.tick_frame d _, Channel.tick_deselected d _⟩
  · have hout := execWith_input_out Config.hardware (i := .cs c l) rfl hexec
    obtain ⟨hpending, hindex⟩ := exec_stream hexec
    have hother : t.chan c.other = s.chan c.other := by
      rw [exec_chan_eq hexec, chanAfter_cs_of_ne _ (Chan.ne_other c)]
    rw [exec_chan_eq hexec c, chanAfter_cs]
    obtain ⟨hctrl, hdisp⟩ := (s.chan c).selectEdge_fedByCount Config.hardware l
    refine ⟨hpending, hindex, hout, hother, fun h8 => ?_, fun h24 => ?_, ?_, ?_⟩
    · have hsame := hctrl.resolve_right fun h => h8 h.1
      exact ⟨congrArg Filter.ring hsame, congrArg Filter.vis hsame⟩
    · have hsame := hdisp.resolve_right fun h => h24 h.1
      exact ⟨congrArg Filter.ring hsame, congrArg Filter.vis hsame⟩
    · rintro rfl; exact (s.chan c).selectEdge_frame_of_not_sense rfl
    · rintro rfl; exact (s.chan c).selectEdge_frame_of_sense rfl

/-! ### Chip-select events -/

/-- Settles O10: the four pairs of flag and level are ignored, select or deselect. -/
theorem csCompletesOnThisHardware : Obligations.CsCompletesOnThisHardware := by
  intro c s
  refine ⟨fun hsel => ?_, fun hsel => ?_, fun hsel => ?_, fun hsel => ?_⟩ <;>
    rw [exec_eq_execWith_hardware, execWith_cs]
  · rw [Channel.selectEdge_of_ignored (cfg := .hardware) (l := 0) ⟨rfl, hsel.symm⟩, State.setChan_chan]
  · rw [Channel.selectEdge_of_ignored (cfg := .hardware) (l := 1) ⟨rfl, hsel.symm⟩, State.setChan_chan]
  · rw [Channel.selectEdge_of_selects (by rw [hsel]; decide) rfl]
  · rw [Channel.selectEdge_of_deselects (by rw [hsel]; decide) rfl]; rfl

/-- Inverting both the polarity and the level leaves the sense (R73). -/
theorem selectedSense_not (activeLow : Bool) (l : Bit) :
    selectedSense (!activeLow) (~~~l) = selectedSense activeLow l := by
  revert l; cases activeLow <;> decide

/-- Settles O14: an edge reads the polarity and the level through the sense alone. -/
theorem polarityInvertsTheLevel : Obligations.PolarityInvertsTheLevel := by
  intro cfg c l s
  rw [execWith_cs, execWith_cs]
  simp only [Channel.selectEdge, selectedSense_not]

/-- Settles O16: each event writes its own channel from that channel's registers. -/
theorem selectEventsOfTwoChannelsCommute : Obligations.SelectEventsOfTwoChannelsCommute :=
  fun cfg l m s => ⟨_, _, { s with left := s.left.selectEdge cfg l, right := s.right.selectEdge cfg m, out := none },
    rfl, rfl, rfl, rfl⟩

/-- Under LEVEL a deselect of a channel that has counted 8 bits feeds its control filter and leaves it as ready to feed
again as before (R131). -/
theorem execWith_cs_level_feeds_again {cfg : Config} (hmode : cfg.csMode = .level) {l : Bit}
    (hsense : selectedSense cfg.csActiveLow l = false) {c : Chan} {s : State} (hcnt : (s.chan c).cnt = 8) :
    ∃ t, execWith cfg (.cs c l) s = .next t ∧ (t.chan c).cnt = 8 ∧ (t.chan c).acc = (s.chan c).acc
      ∧ (t.chan c).ctrlFilter = (s.chan c).ctrlFilter.feed ((s.chan c).acc.setWidth 8)
      ∧ (t.chan c).dispFilter = (s.chan c).dispFilter := by
  obtain ⟨t, ht⟩ := execWith_completes cfg (.cs c l) s
  have hacts : ¬ (cfg.csMode = .transition ∧ selectedSense cfg.csActiveLow l = (s.chan c).sel) := by simp [hmode]
  have hlatch : t.chan c
      = ({ s.chan c with sel := false }.setCtrlFilter ((s.chan c).ctrlFilter.feed ((s.chan c).acc.setWidth 8))) := by
    rw [execWith_chan_eq cfg _ ht, chanAfter_cs, Channel.selectEdge_of_deselects hacts hsense]
    exact Channel.latch_of_ctrlLen _ hcnt
  refine ⟨t, ht, ?_⟩
  rw [hlatch]
  exact ⟨hcnt, rfl, rfl, rfl⟩

/-- Settles O15: the three events feed the same value three times, which is a full window of it. -/
theorem levelModeVotesAgain : Obligations.LevelModeVotesAgain := by
  intro cfg c l s hmode hsense hcnt
  obtain ⟨t1, hx1, hcnt1, hacc1, hctrl1, hdisp1⟩ := execWith_cs_level_feeds_again hmode hsense hcnt
  obtain ⟨t2, hx2, hcnt2, hacc2, hctrl2, hdisp2⟩ := execWith_cs_level_feeds_again hmode hsense hcnt1
  obtain ⟨t3, hx3, _, _, hctrl3, hdisp3⟩ := execWith_cs_level_feeds_again hmode hsense hcnt2
  have hctrl : (t3.chan c).ctrlFilter
      = (List.replicate votes ((s.chan c).acc.setWidth 8)).foldl Filter.feed (s.chan c).ctrlFilter := by
    rw [hctrl3, hctrl2, hctrl1, hacc2, hacc1]; rfl
  have hdisp : (t3.chan c).dispFilter = (s.chan c).dispFilter := hdisp3.trans (hdisp2.trans hdisp1)
  refine ⟨t1, t2, t3, hx1, hx2, hx3, ?_, congrArg Filter.ring hdisp, congrArg Filter.vis hdisp⟩
  exact (congrArg Filter.vis hctrl).trans (Filter.foldl_feed_replicate_vis _ _)

end Sys2Proof.Machine
end

section
/-! The step and runs (60_exceptions.md): what a step that answers a next state did, the configured machine, refusals,
and the run of a sequence of operations. -/

namespace Sys2Proof.Machine

open Sys2Proof.Safety

/-! ### The step -/

section
variable (run : Instr → State → Result) {s : State} {w : Byte} {rest : List Byte}

theorem stepBy_of_idle (hp : s.pending = []) : stepBy run s = .next s := by
  simp only [stepBy, hp]

theorem stepBy_of_decode (hp : s.pending = w :: rest) {i : Instr} (hd : decode w = .ok i) :
    stepBy run s = run i (s.advance rest) := by
  simp only [stepBy, hp, hd]

theorem stepBy_of_reserved (hp : s.pending = w :: rest) {why : Reject} (hd : decode w = .error why) :
    stepBy run s = .refused (.reservedEvent w why) := by
  simp only [stepBy, hp, hd]

/-- A step that answers a next state found nothing pending or ran the operation of the oldest word. -/
theorem stepBy_next_cases {t : State} (h : stepBy run s = .next t) :
    (s.pending = [] ∧ t = s) ∨ ∃ i rest, s.pending = encode i :: rest ∧ run i (s.advance rest) = .next t := by
  rcases stepBy_cases run s with ⟨hp, hx⟩ | ⟨w, rest, i, hp, hd, hx⟩ | ⟨w, rest, why, _, _, hx⟩
  · exact .inl ⟨hp, (Host.Outcome.next.inj (hx.symm.trans h)).symm⟩
  · exact .inr ⟨i, rest, by rw [hp, encode_of_decode hd], hx.symm.trans h⟩
  · cases hx.symm.trans h

end

theorem step_eq_stepBy_hardware (s : State) : step s = stepBy (execWith Config.hardware) s :=
  congrArg (fun run => stepBy run s) (funext fun i => funext fun u => exec_eq_execWith_hardware i u)

/-- What a step does to the stream and to each channel. -/
theorem stepBy_effect {cfg : Config} {s t : State} (h : stepBy (execWith cfg) s = .next t) :
    (s.pending = [] ∧ t = s)
    ∨ ∃ i rest, s.pending = encode i :: rest ∧ t.pending = rest ∧ t.index = s.index + 1
        ∧ ∀ c, t.chan c = chanAfter cfg c (s.chan c) i := by
  refine (stepBy_next_cases _ h).imp_right ?_
  rintro ⟨i, rest, hp, hx⟩
  obtain ⟨hpending, hindex⟩ := execWith_stream cfg i hx
  exact ⟨i, rest, hp, hpending, hindex, fun c => (execWith_chan_eq cfg i hx c).trans (by rw [State.advance_chan])⟩

/-- The next step on a pending operation completes. -/
theorem stepBy_completes (cfg : Config) {s : State} {i : Instr} {rest : List Byte} (hp : s.pending = encode i :: rest) :
    ∃ t, stepBy (execWith cfg) s = .next t := by
  rw [stepBy_of_decode _ hp (decode_encode i)]
  exact execWith_completes cfg i _

/-- Settles O4: a step on a defined word is its operation. -/
theorem stepRunsTheDecodedEvent : Obligations.StepRunsTheDecodedEvent :=
  fun _ _ _ _ hp hd => stepBy_of_decode exec hp hd

/-- Settles O5: a step with no word to take is the idle step. -/
theorem stepWithoutEventChangesNothing : Obligations.StepWithoutEventChangesNothing :=
  fun _ hp => stepBy_of_idle exec hp

/-- Settles O17: both steps take the same operation, and its effect on a channel reads that channel alone. -/
theorem channelsDoNotInterfere : Obligations.ChannelsDoNotInterfere := by
  intro s s' t c hchan hpending hstep
  rw [step_eq_stepBy_hardware] at hstep
  rcases stepBy_effect hstep with ⟨hp, rfl⟩ | ⟨i, rest, hp, ht, _, htc⟩
  · exact ⟨s', stepBy_of_idle exec (hpending ▸ hp), hchan, hpending⟩
  · have hp' : s'.pending = encode i :: rest := hpending ▸ hp
    obtain ⟨t', hstep'⟩ := stepBy_completes Config.hardware hp'
    refine ⟨t', (step_eq_stepBy_hardware s').trans hstep', ?_⟩
    rcases stepBy_effect hstep' with ⟨hidle, _⟩ | ⟨i', rest', hp'', ht', _, htc'⟩
    · rw [hp'] at hidle; cases hidle
    · obtain ⟨hword, rfl⟩ := List.cons.inj (hp'.symm.trans hp'')
      have hi : i = i' := Except.ok.inj ((decode_encode i).symm.trans (hword ▸ decode_encode i'))
      subst hi
      exact ⟨by rw [htc, htc', hchan], ht.trans ht'.symm⟩

/-- Words delivered later only stay pending through an operation. -/
theorem execWith_deliver (cfg : Config) (i : Instr) {s t : State} (h : execWith cfg i s = .next t)
    (later : List Byte) : execWith cfg i (s.deliver later) = .next (t.deliver later) := by
  rcases execWith_cases cfg i s with ⟨d, rfl, hx⟩ | ⟨c, l, rfl, hx⟩ | ⟨hi, _, _⟩
  · obtain rfl := Host.Outcome.next.inj (h.symm.trans hx); rfl
  · obtain rfl := Host.Outcome.next.inj (h.symm.trans hx); cases c <;> rfl
  · obtain ⟨v, hv⟩ := execWith_query_of_chan_eq cfg hi s
    obtain rfl := Host.Outcome.next.inj (h.symm.trans (hv s fun _ => rfl))
    exact hv (s.deliver later) (s.deliver_chan later)

/-- Settles O18: the step takes the same word, and its operation leaves the words delivered later pending. -/
theorem laterWordsDoNotAffectAStep : Obligations.LaterWordsDoNotAffectAStep := by
  intro s t later hpending hstep
  rw [step_eq_stepBy_hardware] at hstep ⊢
  rcases stepBy_next_cases _ hstep with ⟨hp, _⟩ | ⟨i, rest, hp, hx⟩
  · exact absurd hp hpending
  · have hp' : (s.deliver later).pending = encode i :: (rest ++ later) := by rw [State.deliver_pending, hp]; rfl
    rw [stepBy_of_decode _ hp' (decode_encode i)]
    exact execWith_deliver _ i hx later

/-! ### The configured machine -/

theorem configReject_votes_eq_none_iff {cfg : Config} : configReject votes cfg = none ↔ cfg.clkEdge ≠ .anyEdge := by
  simp [configReject]

theorem stepWith_of_not_rejected {cfg : Config} (h : configReject votes cfg = none) (s : State) :
    stepWith cfg s = stepBy (execWith cfg) s := by
  simp only [stepWith, h]

theorem stepWith_of_rejected {cfg : Config} {why : ConfigReject} (h : configReject votes cfg = some why) (s : State) :
    stepWith cfg s = .refused (.badConfig why) := by
  simp only [stepWith, h]

theorem configReject_hardware : configReject votes Config.hardware = none := by decide

theorem stepWith_hardware (s : State) : stepWith Config.hardware s = step s :=
  (stepWith_of_not_rejected configReject_hardware s).trans (step_eq_stepBy_hardware s).symm

theorem run_coreWith_hardware (k : Nat) (s : State) :
    Host.Core.run (coreWith Config.hardware) k s = Host.Core.run core k s := by
  induction k generalizing s with
  | zero => rfl
  | succ k ih =>
    cases hs : step s with
    | next t =>
      rw [run_of_next core hs, ← ih]
      exact run_of_next (coreWith Config.hardware) ((stepWith_hardware s).trans hs) k
    | fault r => cases r
    | refused r =>
      rw [run_of_refused core hs]
      exact run_of_refused (coreWith Config.hardware) ((stepWith_hardware s).trans hs) k

/-- Settles O52: the configured step at this hardware's configuration is the step. -/
theorem hardwareIsTheConfiguredMachine : Obligations.HardwareIsTheConfiguredMachine :=
  ⟨by decide, fun i s => (exec_eq_execWith_hardware i s).symm, stepWith_hardware,
    run_coreWith_hardware⟩

/-- Settles O53: the two refusals by name, and no other configuration is refused. -/
theorem refusedConfigurations : Obligations.RefusedConfigurations := by
  refine ⟨fun cfg s hany => ?_, fun cfg => if_pos rfl, fun cfg s hedge => ?_⟩
  · exact stepWith_of_rejected (by simp [configReject, hany]) s
  · exact stepWith_of_not_rejected (configReject_votes_eq_none_iff.mpr hedge) s

/-! ### Runs -/

/-- Settles O7, by induction over the defined words: each is taken by one step that completes, and then the reserved
word is refused. -/
theorem refusalLastsForTheRun : Obligations.RefusalLastsForTheRun := by
  intro s before after w why k hp hdefined hw hk
  obtain ⟨k, rfl⟩ : ∃ m, k = m + 1 := Nat.exists_eq_succ_of_ne_zero (Nat.ne_zero_of_lt hk)
  induction before generalizing s k with
  | nil => exact run_of_refused core (stepBy_of_reserved exec hp hw) k
  | cons v before ih =>
    obtain ⟨hv, hbefore⟩ := List.forall_mem_cons.mp hdefined
    obtain ⟨i, hi⟩ := decode_of_defined hv
    obtain ⟨t, ht⟩ := exec_completes i (s.advance (before ++ w :: after))
    obtain ⟨m, rfl⟩ : ∃ m, k = m + 1 := Nat.exists_eq_succ_of_ne_zero (by rw [List.length_cons] at hk; omega)
    rw [run_of_next core ((stepBy_of_decode exec hp hi).trans ht)]
    exact ih t (exec_stream ht).1 hbefore m (by rw [List.length_cons] at hk; omega)

/-- The run of a sequence of pending operations completes, takes them, and folds their effects on each channel. -/
theorem run_operations {cfg : Config} (hcfg : configReject votes cfg = none) (is : List Instr) {s : State}
    {rest : List Byte} (hp : s.pending = is.map encode ++ rest) :
    ∃ t : State, Host.Core.run (coreWith cfg) is.length s = .next t ∧ t.pending = rest
      ∧ t.index = s.index + is.length ∧ ∀ c, t.chan c = is.foldl (chanAfter cfg c) (s.chan c) := by
  induction is generalizing s with
  | nil => exact ⟨s, rfl, hp, rfl, fun _ => rfl⟩
  | cons i is ih =>
    obtain ⟨u, hu⟩ := execWith_completes cfg i (s.advance (is.map encode ++ rest))
    obtain ⟨hpending, hindex⟩ := execWith_stream cfg i hu
    obtain ⟨t, hrun, hrest, htindex, hchan⟩ := ih hpending
    have hstep : (coreWith cfg).step s = .next u :=
      (stepWith_of_not_rejected hcfg s).trans ((stepBy_of_decode _ hp (decode_encode i)).trans hu)
    refine ⟨t, (run_of_next (coreWith cfg) hstep is.length).trans hrun, hrest, ?_, fun c => ?_⟩
    · rw [htindex, hindex, State.advance_index, List.length_cons]; omega
    · rw [hchan, execWith_chan_eq cfg i hu, State.advance_chan, List.foldl_cons]

/-! ### The invariant of the filters (R104, R105) -/

theorem filterInv_of_fed {n w : Nat} {init : BitVec w} {f g : Filter n w} {p : Prop} {v : BitVec w}
    (h : g = f ∨ p ∧ g = f.feed v) (hf : FilterInv init f) : FilterInv init g := by
  rcases h with rfl | ⟨_, rfl⟩
  · exact hf
  · exact filterInv_feed hf v

theorem channelInv_chanAfter {cfg : Config} {x : Channel votes} (hx : ChannelInv cfg x) (c : Chan) (i : Instr) :
    ChannelInv cfg (chanAfter cfg c x i) :=
  have hfed := chanAfter_fedByCount cfg c x i
  ⟨filterInv_of_fed hfed.1 hx.1, filterInv_of_fed hfed.2 hx.2⟩

/-- Settles O25: a step feeds a filter at most once, and a feed keeps a filter's invariant. -/
theorem stepKeepsTheFilterInvariant : Obligations.StepKeepsTheFilterInvariant := by
  rintro s t ⟨hleft, hright⟩ hstep
  rw [step_eq_stepBy_hardware] at hstep
  rcases stepBy_effect hstep with ⟨_, rfl⟩ | ⟨i, _, _, _, _, hchan⟩
  · exact ⟨hleft, hright⟩
  · have hkept : ∀ c, ChannelInv Config.hardware (s.chan c) → ChannelInv Config.hardware (t.chan c) := fun c hc =>
      hchan c ▸ channelInv_chanAfter hc c i
    exact ⟨hkept .left hleft, hkept .right hright⟩

theorem channelInv_reset (cfg : Config) {n : Nat} (h : 0 < n) :
    ChannelInv cfg (Channel.reset n h cfg.ctrlInit cfg.dispInit) :=
  ⟨filterInv_empty h cfg.ctrlInit, filterInv_empty h cfg.dispInit⟩

/-- Settles O26: both filters of a channel are empty at reset. -/
theorem resetMeetsTheFilterInvariant : Obligations.ResetMeetsTheFilterInvariant :=
  have hreset : ∀ cfg, StateInv cfg (State.resetWith cfg) := fun cfg =>
    ⟨channelInv_reset cfg (by decide), channelInv_reset cfg (by decide)⟩
  ⟨hreset Config.hardware, hreset⟩

end Sys2Proof.Machine
end

section
/-! Frames (41_chip_decoder.md): a selected channel holds the bits of the open frame, a deselect latches them by their
number, and the registers follow the frames that the events spell out. -/

namespace Sys2Proof.Machine

open Sys2Proof.Safety

/-! ### The open frame in the accumulator and the counter (R121) -/

/-- A channel is selected exactly if a frame is open, and then its accumulator and its counter hold the frame's bits,
newest first. -/
def Channel.HoldsFrame {n : Nat} (opened : Option (List Bit)) (x : Channel n) : Prop :=
  x.sel = opened.isSome
  ∧ ∀ bits ∈ opened, x.acc = BitVec.ofNat 32 (bitsValue bits) ∧ x.cnt = BitVec.ofNat 8 bits.length

section
variable {n : Nat} {x : Channel n} {bits : List Bit}

theorem Channel.holdsFrame_none (h : x.sel = false) : x.HoldsFrame none := ⟨h, fun _ hbits => nomatch hbits⟩

theorem Channel.holdsFrame_some (hsel : x.sel = true) (hacc : x.acc = BitVec.ofNat 32 (bitsValue bits))
    (hcnt : x.cnt = BitVec.ofNat 8 bits.length) : x.HoldsFrame (some bits) := by
  refine ⟨hsel, fun b hb => ?_⟩
  obtain rfl := Option.some.inj hb
  exact ⟨hacc, hcnt⟩

theorem Channel.HoldsFrame.acc_cnt (h : x.HoldsFrame (some bits)) :
    x.acc = BitVec.ofNat 32 (bitsValue bits) ∧ x.cnt = BitVec.ofNat 8 bits.length := h.2 bits rfl

end

/-- Shifting a bit in at the low end doubles the accumulator and adds the bit (R52, R121). -/
theorem shiftIn_eq (v : Nat) (d : Bit) :
    (BitVec.ofNat 32 v <<< 1) ||| d.setWidth 32 = BitVec.ofNat 32 (2 * v + d.toNat) := by
  have hdisjoint : (BitVec.ofNat 32 v <<< 1) &&& d.setWidth 32 = 0 := by
    ext i hi
    rcases Nat.eq_zero_or_pos i with rfl | hpos
    · simp
    · simp [BitVec.getLsbD_of_ge d i hpos]
  rw [← BitVec.add_eq_or_of_and_eq_zero _ _ hdisjoint]
  apply BitVec.eq_of_toNat_eq
  simp only [BitVec.toNat_add, BitVec.toNat_shiftLeft, BitVec.toNat_ofNat, BitVec.toNat_setWidth, Nat.shiftLeft_eq]
  omega

theorem Channel.HoldsFrame.tick {n : Nat} {x : Channel n} {opened : Option (List Bit)} (h : x.HoldsFrame opened)
    (d : Bit) : (x.tick d).HoldsFrame (opened.map (fun bits => d :: bits)) := by
  cases opened with
  | none => rw [Channel.tick_deselected d x h.1]; exact Channel.holdsFrame_none h.1
  | some bits =>
    obtain ⟨hacc, hcnt⟩ := h.acc_cnt
    rw [Channel.tick_selected d x h.1]
    refine Channel.holdsFrame_some h.1 ?_ ?_
    · rw [bitsValue, ← shiftIn_eq, hacc]
    · rw [List.length_cons, BitVec.ofNat_add, ← hcnt]; rfl

/-! ### A deselect latches the open frame (R124 to R127, R130) -/

theorem ofNat_eq_ofNat_iff (k m : Nat) : BitVec.ofNat 8 k = BitVec.ofNat 8 m ↔ k % 256 = m % 256 := by
  rw [← BitVec.toNat_inj, BitVec.toNat_ofNat, BitVec.toNat_ofNat]

section
variable {n : Nat} {x : Channel n} {bits : List Bit} (mask : Word)
  (hacc : x.acc = BitVec.ofNat 32 (bitsValue bits)) (hcnt : x.cnt = BitVec.ofNat 8 bits.length)
include hacc hcnt

theorem Channel.latch_ctrlFilter_of_bits :
    (x.latch mask).ctrlFilter = (controlFeed bits).elim x.ctrlFilter x.ctrlFilter.feed := by
  have hlen : x.cnt = ctrlLen ↔ bits.length % 256 = 8 := by rw [hcnt]; exact ofNat_eq_ofNat_iff _ 8
  rw [Channel.latch_ctrlFilter, hacc, BitVec.setWidth_ofNat_of_le (by decide), controlFeed]
  by_cases h : bits.length % 256 = 8
  · rw [if_pos (hlen.mpr h), if_pos h]; rfl
  · rw [if_neg (mt hlen.mp h), if_neg h]; rfl

theorem Channel.latch_dispFilter_of_bits :
    (x.latch mask).dispFilter = (displayFeed mask bits).elim x.dispFilter x.dispFilter.feed := by
  have hlen : x.cnt = dispLen ↔ bits.length % 256 = 24 := by rw [hcnt]; exact ofNat_eq_ofNat_iff _ 24
  rw [Channel.latch_dispFilter, hacc, displayFeed]
  by_cases h : bits.length % 256 = 24
  · rw [if_pos (hlen.mpr h), if_pos h]; rfl
  · rw [if_neg (mt hlen.mp h), if_neg h]; rfl

end

/-- `y` is `x` with its open frame `bits` latched: deselected, the accumulator and the counter left, each filter fed the
frame's value of its kind, if it has one. -/
def Channel.Latched (mask : Word) (bits : List Bit) {n : Nat} (x y : Channel n) : Prop :=
  y.sel = false ∧ y.acc = BitVec.ofNat 32 (bitsValue bits) ∧ y.cnt = BitVec.ofNat 8 bits.length
  ∧ y.ctrlFilter = (controlFeed bits).elim x.ctrlFilter x.ctrlFilter.feed
  ∧ y.dispFilter = (displayFeed mask bits).elim x.dispFilter x.dispFilter.feed

theorem Channel.HoldsFrame.selectEdge_latched {n : Nat} {x : Channel n} {bits : List Bit}
    (h : x.HoldsFrame (some bits)) {cfg : Config} {l : Bit} (hsense : selectedSense cfg.csActiveLow l = false) :
    Channel.Latched cfg.dispFeedMask bits x (x.selectEdge cfg l) := by
  obtain ⟨hacc, hcnt⟩ := h.acc_cnt
  have hacts : ¬ (cfg.csMode = .transition ∧ selectedSense cfg.csActiveLow l = x.sel) := by simp [h.1, hsense]
  rw [Channel.selectEdge_of_deselects hacts hsense]
  refine ⟨Channel.latch_sel .., ?_, ?_, ?_, ?_⟩
  · rw [Channel.latch_acc]; exact hacc
  · rw [Channel.latch_cnt]; exact hcnt
  · exact Channel.latch_ctrlFilter_of_bits (x := { x with sel := false }) _ hacc hcnt
  · exact Channel.latch_dispFilter_of_bits (x := { x with sel := false }) _ hacc hcnt

/-! ### Bits clocked in, and then a deselect -/

theorem foldl_clk_holdsFrame (cfg : Config) (c : Chan) {x : Channel votes} {older : List Bit}
    (h : x.HoldsFrame (some older)) (bits : List Bit) :
    ((bits.map Instr.clk).foldl (chanAfter cfg c) x).HoldsFrame (some (bits.reverse ++ older)) := by
  induction bits generalizing x older with
  | nil => exact h
  | cons d bits ih =>
    rw [List.reverse_cons, List.append_assoc]
    exact ih (h.tick d)

theorem foldl_clk_sameRegisters (cfg : Config) (c : Chan) (x : Channel votes) (bits : List Bit) :
    ((bits.map Instr.clk).foldl (chanAfter cfg c) x).SameRegisters x := by
  induction bits generalizing x with
  | nil => exact ⟨rfl, rfl⟩
  | cons d bits ih =>
    obtain ⟨hctrl, hdisp⟩ := ih (x.tick d)
    exact ⟨hctrl.trans (x.tick_ctrlFilter d), hdisp.trans (x.tick_dispFilter d)⟩

theorem foldl_clk_deselected (cfg : Config) (c : Chan) {x : Channel votes} (h : x.sel = false) (bits : List Bit) :
    (bits.map Instr.clk).foldl (chanAfter cfg c) x = x := by
  rw [List.foldl_map]
  exact List.foldl_fixed' (fun d => Channel.tick_deselected d x h) bits

/-- Bits clocked into an open frame that has none yet, and then a deselect, latch those bits. -/
theorem foldl_frame_latched {cfg : Config} {c : Chan} {l : Bit} (hsense : selectedSense cfg.csActiveLow l = false)
    {x : Channel votes} (h : x.HoldsFrame (some [])) (bits : List Bit) :
    Channel.Latched cfg.dispFeedMask bits.reverse x
      ((bits.map Instr.clk ++ [Instr.cs c l]).foldl (chanAfter cfg c) x) := by
  have hopen := foldl_clk_holdsFrame cfg c h bits
  obtain ⟨hctrl, hdisp⟩ := foldl_clk_sameRegisters cfg c x bits
  rw [List.append_nil] at hopen
  rw [List.foldl_concat, chanAfter_cs, Channel.Latched, ← hctrl, ← hdisp]
  exact hopen.selectEdge_latched hsense

/-- What a latched frame feeds on this hardware, whose feed mask keeps every bit, by its length modulo 256. -/
theorem Channel.Latched.hardware_filters {n : Nat} {x y : Channel n} {bits : List Bit}
    (h : Channel.Latched Config.hardware.dispFeedMask bits x y) :
    y.ctrlFilter = (if bits.length % 256 = 8 then x.ctrlFilter.feed (BitVec.ofNat 8 (bitsValue bits))
      else x.ctrlFilter)
    ∧ y.dispFilter = (if bits.length % 256 = 24 then x.dispFilter.feed (BitVec.ofNat 32 (bitsValue bits))
      else x.dispFilter) := by
  obtain ⟨_, _, _, hctrl, hdisp⟩ := h
  constructor
  · rw [hctrl, controlFeed, apply_ite (fun o => Option.elim o _ _)]; rfl
  · rw [hdisp, displayFeed, show Config.hardware.dispFeedMask = BitVec.allOnes 32 from rfl, BitVec.and_allOnes,
      apply_ite (fun o => Option.elim o _ _)]
    rfl

/-- Settles O27: the clocked bits are held, and the deselect latches them by their number modulo 256. -/
theorem frameOfAnyLengthLatchesModulo256 : Obligations.FrameOfAnyLengthLatchesModulo256 := by
  intro s c bits rest hsel hacc hcnt hp
  have hops : s.pending = (bits.map Instr.clk ++ [Instr.cs c 1]).map encode ++ rest := by
    rw [hp, List.map_append, List.map_map, List.append_assoc]; rfl
  obtain ⟨t, hrun, hrest, _, hchan⟩ := run_operations configReject_hardware _ hops
  have hlatched : Channel.Latched Config.hardware.dispFeedMask bits.reverse (s.chan c) (t.chan c) := by
    rw [hchan c]
    exact foldl_frame_latched rfl (Channel.holdsFrame_some hsel hacc hcnt) bits
  obtain ⟨hctrl, hdisp⟩ := hlatched.hardware_filters
  obtain ⟨hsel', hacc', hcnt', _, _⟩ := hlatched
  rw [List.length_reverse] at hcnt' hctrl hdisp
  rw [run_coreWith_hardware, List.length_append, List.length_map, List.length_singleton] at hrun
  exact ⟨t, hrun, hrest, hsel', hcnt', hacc', hctrl, hdisp⟩

/-! ### The pseudo-operation FRAME (R82) -/

/-- The data bits of `SHIFT k, v`, in the order in which they are clocked in. -/
def shiftBits : Nat → Nat → List Bit
  | 0, _ => []
  | k + 1, v => BitVec.ofBool (v.testBit k) :: shiftBits k v

theorem pseudoShift_eq_map_clk (k v : Nat) : pseudoShift k v = (shiftBits k v).map Instr.clk := by
  induction k with
  | zero => rfl
  | succ k ih => rw [pseudoShift, ih]; rfl

theorem length_shiftBits (k v : Nat) : (shiftBits k v).length = k := by
  induction k with
  | zero => rfl
  | succ k ih => rw [shiftBits, List.length_cons, ih]

theorem bitsValue_concat (bits : List Bit) (b : Bit) :
    bitsValue (bits ++ [b]) = bitsValue bits + 2 ^ bits.length * b.toNat := by
  induction bits with
  | nil => simp [bitsValue]
  | cons d bits ih =>
    rw [List.cons_append, bitsValue, ih, bitsValue, List.length_cons]
    ring

theorem bitsValue_reverse_shiftBits (k v : Nat) : bitsValue (shiftBits k v).reverse = v % 2 ^ k := by
  induction k with
  | zero => rw [Nat.pow_zero, Nat.mod_one]; rfl
  | succ k ih =>
    rw [shiftBits, List.reverse_cons, bitsValue_concat, ih, List.length_reverse, length_shiftBits, BitVec.toNat_ofBool,
      Nat.toNat_testBit, Nat.mod_pow_succ]

/-- Settles O28: the select opens an empty frame, the `k` bits of `v` are held, and the deselect latches them; a
deselected other channel ignores them all. -/
theorem cleanFrameIsLatched : Obligations.CleanFrameIsLatched := by
  intro s c k v rest hsel hv hp
  obtain ⟨t, hrun, hrest, hindex, hchan⟩ := run_operations configReject_hardware _ hp
  have hlen : (pseudoFrame Config.hardware c k v).length = k + 2 := by
    simp [pseudoFrame, pseudoShift_eq_map_clk, length_shiftBits]
  have hframe : pseudoFrame Config.hardware c k v
      = Instr.cs c 0 :: ((shiftBits k v).map Instr.clk ++ [Instr.cs c 1]) := by
    rw [pseudoFrame, pseudoShift_eq_map_clk]; rfl
  have hselects : chanAfter Config.hardware c (s.chan c) (.cs c 0)
      = { s.chan c with sel := true, acc := 0, cnt := 0 } := by
    rw [chanAfter_cs, Channel.selectEdge_of_selects (by rw [hsel]; decide) rfl]
  have hlatched : Channel.Latched Config.hardware.dispFeedMask (shiftBits k v).reverse
      { s.chan c with sel := true, acc := 0, cnt := 0 } (t.chan c) := by
    rw [hchan c, hframe, List.foldl_cons, hselects]
    exact foldl_frame_latched rfl (Channel.holdsFrame_some rfl rfl rfl) (shiftBits k v)
  have hother (hdeselected : (s.chan c.other).sel = false) : t.chan c.other = s.chan c.other := by
    rw [hchan c.other, hframe, List.foldl_cons, chanAfter_cs_of_ne _ (Chan.ne_other c), List.foldl_concat,
      foldl_clk_deselected _ _ hdeselected, chanAfter_cs_of_ne _ (Chan.ne_other c)]
  obtain ⟨hctrl, hdisp⟩ := hlatched.hardware_filters
  obtain ⟨hsel', hacc, hcnt, _, _⟩ := hlatched
  rw [List.length_reverse, length_shiftBits] at hcnt hctrl hdisp
  rw [bitsValue_reverse_shiftBits, Nat.mod_eq_of_lt hv] at hacc hctrl hdisp
  rw [run_coreWith_hardware, hlen] at hrun
  rw [hlen] at hindex
  refine ⟨t, hrun, hrest, hindex, hsel', hcnt, hacc, ?_, ?_, fun h256 h8 h24 => ?_, hother⟩
  · rintro rfl; exact ⟨hctrl, hdisp⟩
  · rintro rfl; exact ⟨hdisp, hctrl⟩
  · rw [Nat.mod_eq_of_lt h256] at hctrl hdisp
    rw [if_neg h8] at hctrl
    rw [if_neg h24] at hdisp
    exact ⟨hctrl, hdisp⟩

/-! ### The frames of a sequence of events -/

section
variable (activeLow : Bool) (c : Chan)

/-- The frames closed by an event and by those after it: the later ones see the frame that the event leaves open. -/
theorem closedFrames_cons (opened : Option (List Bit)) (i : Instr) (is : List Instr) :
    closedFrames activeLow c opened (i :: is)
      = closedFrames activeLow c opened [i] ++ closedFrames activeLow c (frameAfter activeLow c opened i) is := by
  cases i with
  | cs c' l =>
    by_cases hc : c' = c
    · cases opened <;> cases hsense : selectedSense activeLow l <;>
        simp [closedFrames, frameAfter, hc, hsense]
    · simp [closedFrames, frameAfter, hc]
  | _ => rfl

theorem closedFrames_concat (opened : Option (List Bit)) (is : List Instr) (i : Instr) :
    closedFrames activeLow c opened (is ++ [i])
      = closedFrames activeLow c opened is
        ++ closedFrames activeLow c (is.foldl (frameAfter activeLow c) opened) [i] := by
  induction is generalizing opened with
  | nil => rfl
  | cons j is ih =>
    rw [List.cons_append, closedFrames_cons, ih, closedFrames_cons _ _ _ j is, List.append_assoc, List.foldl_cons]

theorem openFrame_concat (is : List Instr) (i : Instr) :
    openFrame activeLow c (is ++ [i]) = frameAfter activeLow c (openFrame activeLow c is) i := List.foldl_concat ..

end

/-! ### The registers follow the frames (R104, R123 to R127) -/

/-- The registers of a channel agree with an open frame and the frames closed before it. -/
def FollowsFrames (cfg : Config) (opened : Option (List Bit)) (closed : List (List Bit)) (x : Channel votes) : Prop :=
  x.HoldsFrame opened
  ∧ FollowsFeeds (by decide) cfg.ctrlInit x.ctrlFilter (closed.filterMap controlFeed)
  ∧ FollowsFeeds (by decide) cfg.dispInit x.dispFilter (closed.filterMap (displayFeed cfg.dispFeedMask))

theorem channelFollows_iff {cfg : Config} {c : Chan} {is : List Instr} {x : Channel votes} :
    ChannelFollows cfg c is x
      ↔ FollowsFrames cfg (openFrame cfg.csActiveLow c is) (closedFrames cfg.csActiveLow c none is) x :=
  and_assoc.symm

theorem followsFeeds_elim {n w : Nat} {h : 0 < n} {init : BitVec w} {f : Filter n w} {α : Type}
    {feed : α → Option (BitVec w)} {closed : List α} (hf : FollowsFeeds h init f (closed.filterMap feed)) (frame : α) :
    FollowsFeeds h init ((feed frame).elim f f.feed) ((closed ++ [frame]).filterMap feed) := by
  rw [List.filterMap_append]
  cases hv : feed frame with
  | none => simpa [hv] using hf
  | some v => simpa [hv] using followsFeeds_feed hf v

section
variable {cfg : Config} {c : Chan} {opened : Option (List Bit)} {closed : List (List Bit)} {x : Channel votes}

theorem FollowsFrames.tick (h : FollowsFrames cfg opened closed x) (d : Bit) :
    FollowsFrames cfg (opened.map (fun bits => d :: bits)) closed (x.tick d) := by
  obtain ⟨hopen, hctrl, hdisp⟩ := h
  exact ⟨hopen.tick d, (x.tick_ctrlFilter d).symm ▸ hctrl, (x.tick_dispFilter d).symm ▸ hdisp⟩

/-- A chip-select edge of the channel's own line, by whether a frame is open and which way the edge goes: it is ignored,
opens an empty frame, or closes and latches the open one. -/
theorem FollowsFrames.selectEdge (hmode : cfg.csMode = .transition) (h : FollowsFrames cfg opened closed x) (l : Bit) :
    FollowsFrames cfg (frameAfter cfg.csActiveLow c opened (.cs c l))
      (closed ++ closedFrames cfg.csActiveLow c opened [.cs c l]) (x.selectEdge cfg l) := by
  obtain ⟨hopen, hctrl, hdisp⟩ := h
  cases opened with
  | none =>
    cases hsense : selectedSense cfg.csActiveLow l with
    | false =>
      rw [Channel.selectEdge_of_ignored ⟨hmode, hsense.trans hopen.1.symm⟩]
      simpa [frameAfter, closedFrames, hsense] using ⟨hopen, hctrl, hdisp⟩
    | true =>
      rw [Channel.selectEdge_of_selects (by simp [hsense, hopen.1]) hsense]
      have hempty : Channel.HoldsFrame (some []) { x with sel := true, acc := 0, cnt := 0 } :=
        Channel.holdsFrame_some rfl rfl rfl
      simpa [frameAfter, closedFrames, hsense] using ⟨hempty, hctrl, hdisp⟩
  | some bits =>
    cases hsense : selectedSense cfg.csActiveLow l with
    | false =>
      obtain ⟨hsel, _, _, hctrl', hdisp'⟩ := hopen.selectEdge_latched hsense
      have hlatched : FollowsFrames cfg none (closed ++ [bits]) (x.selectEdge cfg l) :=
        ⟨Channel.holdsFrame_none hsel, hctrl' ▸ followsFeeds_elim hctrl bits, hdisp' ▸ followsFeeds_elim hdisp bits⟩
      simpa [frameAfter, closedFrames, hsense] using hlatched
    | true =>
      rw [Channel.selectEdge_of_ignored ⟨hmode, hsense.trans hopen.1.symm⟩]
      simpa [frameAfter, closedFrames, hsense] using ⟨hopen, hctrl, hdisp⟩

theorem followsFrames_chanAfter (hmode : cfg.csMode = .transition) (h : FollowsFrames cfg opened closed x) (i : Instr) :
    FollowsFrames cfg (frameAfter cfg.csActiveLow c opened i) (closed ++ closedFrames cfg.csActiveLow c opened [i])
      (chanAfter cfg c x i) := by
  cases i with
  | clk d => rw [chanAfter_clk]; simpa [closedFrames, frameAfter] using h.tick d
  | cs c' l =>
    by_cases hc : c' = c
    · subst hc; rw [chanAfter_cs]; exact h.selectEdge hmode l
    · rw [chanAfter_cs_of_ne cfg hc]; simpa [closedFrames, frameAfter, hc] using h
  | _ => exact (List.append_nil closed).symm ▸ h

end

/-- Every operation keeps a channel agreeing with the events taken. -/
theorem channelFollows_chanAfter {cfg : Config} (hmode : cfg.csMode = .transition) {c : Chan} {is : List Instr}
    {x : Channel votes} (h : ChannelFollows cfg c is x) (i : Instr) :
    ChannelFollows cfg c (is ++ [i]) (chanAfter cfg c x i) := by
  rw [channelFollows_iff] at h ⊢
  rw [openFrame_concat, closedFrames_concat]
  exact followsFrames_chanAfter hmode h i

theorem channelFollows_reset (cfg : Config) (c : Chan) :
    ChannelFollows cfg c [] (Channel.reset votes (by decide) cfg.ctrlInit cfg.dispInit) :=
  channelFollows_iff.mpr
    ⟨Channel.holdsFrame_none rfl, followsFeeds_empty (by decide) cfg.ctrlInit,
      followsFeeds_empty (by decide) cfg.dispInit⟩

/-- Settles O57: at reset no frame is open and both filters are empty. -/
theorem resetAgreesWithNoEvents : Obligations.ResetAgreesWithNoEvents :=
  have hreset : ∀ cfg, FollowsEvents cfg [] (State.resetWith cfg) := fun cfg =>
    ⟨rfl, channelFollows_reset cfg .left, channelFollows_reset cfg .right⟩
  ⟨hreset Config.hardware, hreset⟩

theorem stepBy_keeps_followsEvents {cfg : Config} (hmode : cfg.csMode = .transition) {is : List Instr} {s t : State}
    (h : FollowsEvents cfg is s) (hstep : stepBy (execWith cfg) s = .next t) :
    (s.pending = [] ∧ FollowsEvents cfg is t)
    ∨ ∃ i rest, s.pending = encode i :: rest ∧ t.pending = rest ∧ FollowsEvents cfg (is ++ [i]) t := by
  rcases stepBy_effect hstep with ⟨hp, rfl⟩ | ⟨i, rest, hp, hrest, hindex, hchan⟩
  · exact .inl ⟨hp, h⟩
  · obtain ⟨hcount, hleft, hright⟩ := h
    have hkept : ∀ c, ChannelFollows cfg c is (s.chan c) → ChannelFollows cfg c (is ++ [i]) (t.chan c) := fun c hc =>
      hchan c ▸ channelFollows_chanAfter hmode hc i
    refine .inr ⟨i, rest, hp, hrest, ?_, hkept .left hleft, hkept .right hright⟩
    rw [hindex, hcount, List.length_append, List.length_singleton]

/-- Settles O56: a step is idle or one operation, whose effect keeps each channel on the events. -/
theorem stepKeepsTheRegistersOnTheEvents : Obligations.StepKeepsTheRegistersOnTheEvents := by
  refine ⟨fun cfg is s t hcfg hmode h hstep => ?_, fun is s t h hstep => ?_⟩
  · exact stepBy_keeps_followsEvents hmode h ((stepWith_of_not_rejected hcfg s).symm.trans hstep)
  · exact stepBy_keeps_followsEvents rfl h ((step_eq_stepBy_hardware s).symm.trans hstep)

theorem channelFollows_foldl {cfg : Config} (hmode : cfg.csMode = .transition) (c : Chan) (is : List Instr) :
    ChannelFollows cfg c is
      (is.foldl (chanAfter cfg c) (Channel.reset votes (by decide) cfg.ctrlInit cfg.dispInit)) := by
  induction is using List.reverseRecOn with
  | nil => exact channelFollows_reset cfg c
  | append_singleton is i ih => rw [List.foldl_concat]; exact channelFollows_chanAfter hmode ih i

theorem resetWith_chan (cfg : Config) (c : Chan) :
    (State.resetWith cfg).chan c = Channel.reset votes (by decide) cfg.ctrlInit cfg.dispInit := by cases c <;> rfl

/-- Settles O29: the run folds the effects of the operations on each channel, from a reset that follows no event. -/
theorem visibleRegistersFollowTheFrames : Obligations.VisibleRegistersFollowTheFrames := by
  intro cfg is hcfg hmode
  obtain ⟨t, hrun, hrest, _, hchan⟩ := run_operations hcfg is
    (s := { State.resetWith cfg with pending := is.map encode }) (rest := []) (List.append_nil _).symm
  refine ⟨t, hrun, hrest, fun c => ?_⟩
  have hreset : ({ State.resetWith cfg with pending := is.map encode } : State).chan c
      = Channel.reset votes (by decide) cfg.ctrlInit cfg.dispInit := by rw [← resetWith_chan cfg c]; cases c <;> rfl
  obtain ⟨_, _, hctrl, hdisp⟩ := channelFollows_foldl hmode c is
  rw [hchan c, hreset]
  exact ⟨hctrl.2, hdisp.2⟩

end Sys2Proof.Machine
end

section
/-! The read ports and the register decoder (40_consensus_filter.md, 42_register_decoder.md): what RDC, RDD, DBANK.S,
DDISP and ISOFF drive, and which bits a decoded display reads. -/

namespace Sys2Proof.Machine

open Sys2Proof.Safety

/-! ### The read ports -/

theorem channelInv_of_stateInv {cfg : Config} {s : State} (h : StateInv cfg s) (c : Chan) :
    ChannelInv cfg (s.chan c) := by
  obtain ⟨hleft, hright⟩ := h
  cases c
  · exact hleft
  · exact hright

/-- While its window fills, a filter that meets its invariant shows the initial value (R105). -/
theorem filterInv_vis_of_size_lt {n w : Nat} {init : BitVec w} {f : Filter n w} (h : FilterInv init f)
    (hfilling : f.ring.size.val < n) : f.vis = init := (h.1 hfilling).2.1

theorem exec_rdc (ch : Chan) (s : State) :
    exec (.rdc ch) s = .next { s with out := some (.byte (s.chan ch).cvis) } := rfl

theorem exec_rdd (ch : Chan) (s : State) :
    exec (.rdd ch) s = .next { s with out := some (.word (s.chan ch).dvis) } := rfl

/-- Settles O30: the port drives the register, the words of op 3 are accepted by their mask, and a window that fills
shows the initial value. -/
theorem rdcReadsTheControlRegister : Obligations.RdcReadsTheControlRegister := by
  refine ⟨exec_rdc, fun w => decode_rdc_of_masked, fun w hop hres => ⟨.reservedArg, ?_⟩, fun s ch hinv hfilling => ?_⟩
  · rw [decode_of_op_rdc hop, acceptIf_chan_reserved hres (by decide)]
  · have hvis : (s.chan ch).cvis = Config.hardware.ctrlInit :=
      filterInv_vis_of_size_lt (channelInv_of_stateInv hinv ch).1 hfilling
    rw [exec_rdc, hvis]

/-- Settles O31: as O30, for the display register and op 4. -/
theorem rddReadsTheDisplayRegister : Obligations.RddReadsTheDisplayRegister := by
  refine ⟨exec_rdd, fun w => decode_rdd_of_masked, fun w hop hres => ⟨.reservedArg, ?_⟩, fun s ch hinv hfilling => ?_⟩
  · rw [decode_of_op_rdd hop, acceptIf_chan_reserved hres (by decide)]
  · have hvis : (s.chan ch).dvis = Config.hardware.dispInit :=
      filterInv_vis_of_size_lt (channelInv_of_stateInv hinv ch).2 hfilling
    rw [exec_rdd, hvis]

/-! ### The register decoder -/

/-- The default special table in the order of its entries (R152). -/
theorem defaultSpecialTable_eq_getElem? (n : Nibble) :
    some (defaultSpecialTable n) = [(0x20 : Byte), 0x63, 0x48, 0x68, 0x4A, 0x4C, 0x6E, 0x6F, 0x50, 0x72, 0x55, 0x75,
      0x79, 0x2D, 0x3D, 0x6F][n.toNat]? := by
  revert n; decide

/-- Settles O33: DBANK.S drives the special table's entry, and the words of op 6 are accepted by their mask. -/
theorem dbankSLooksUpTheSpecialTable : Obligations.DbankSLooksUpTheSpecialTable := by
  refine ⟨fun n s => rfl, fun n => ?_, fun w => decode_dbankS_of_masked⟩
  rw [decodeBank_special]
  exact defaultSpecialTable_eq_getElem? n

/-- A decoded display reads bits 11:0 alone (R158). -/
theorem decodeDisplay_congr (cfg : Config) {disp disp' : Word} (ctrl : Byte) (h : disp &&& 0xFFF = disp' &&& 0xFFF) :
    decodeDisplay cfg disp ctrl = decodeDisplay cfg disp' ctrl := by
  rw [decodeDisplay, decodeDisplay, field_congr (lo := 0) h (by decide) (by decide),
    field_congr (lo := 4) h (by decide) (by decide), field_congr (lo := 8) h (by decide) (by decide)]

/-- Settles O35: DDISP drives the decoded display, which reads bits 11:0, and the words of op 7 are accepted by their
mask. -/
theorem ddispDecodesTheDisplay : Obligations.DdispDecodesTheDisplay :=
  ⟨fun _ _ => rfl, fun cfg _ _ ctrl => decodeDisplay_congr cfg ctrl, fun _ => decode_ddisp_of_masked⟩

theorem field_eq_ofNat_div (v : Word) (lo len : Nat) : field v lo len = BitVec.ofNat len (v.toNat / 2 ^ lo) := by
  rw [field, BitVec.extractLsb', Nat.shiftRight_eq_div_pow]

theorem specialBank_eq_decide (cfg : Config) (b : Bank) (ctrl : Byte) :
    specialBank cfg b ctrl = decide (ctrl &&& cfg.specialMask b = cfg.specialValue b) := beq_eq_decide ..

/-- Settles O36: a bank's field is its quotient by a power of 2, and its flag the masked comparison. -/
theorem eachBankIsDecodedByItsOwnFlag : Obligations.EachBankIsDecodedByItsOwnFlag := by
  intro cfg disp ctrl
  simp only [decodeDisplay, field_eq_ofNat_div, specialBank_eq_decide]
  refine ⟨?_, rfl, rfl⟩
  rw [Nat.pow_zero, Nat.div_one]

theorem exec_isoff (ch : Chan) (s : State) :
    exec (.isoff ch) s = .next { s with out := some (.bit (if (s.chan ch).cvis.getLsbD 0 then 0 else 1)) } := by
  have hbit : BitVec.ofBool (isOff (s.chan ch).cvis) = if (s.chan ch).cvis.getLsbD 0 then 0 else 1 := by
    cases h : (s.chan ch).cvis.getLsbD 0
    · rw [isOff_of_clear h]; rfl
    · rw [isOff_of_set h]; rfl
  rw [← hbit]; rfl

/-- Settles O37: the bit driven is the complement of bit 0, the words of op 8 are accepted by their mask, and the
initial control registers have bit 0 clear. -/
theorem isoffTestsBitZero : Obligations.IsoffTestsBitZero :=
  ⟨exec_isoff, fun _ => decode_isoff_of_masked, exec_isoff .left State.reset, exec_isoff .right State.reset⟩

end Sys2Proof.Machine
end

section
/-! The formatter (43_formatter.md): plain banks, the classification of the machine state, the labels of the Normal
state and the codes that select them. -/

namespace Sys2Proof.Machine

/-! ### Plain banks (R173) -/

theorem decodeBank_hex_ne (cfg : Config) (n : Nibble) :
    decodeBank cfg n false ≠ space ∧ decodeBank cfg n false ≠ dash := hexTable_ne n

theorem decodeDisplay_of_plain (cfg : Config) (disp : Word) {ctrl : Byte}
    (h : ∀ b : Bank, specialBank cfg b ctrl = false) :
    decodeDisplay cfg disp ctrl
      = ⟨hexTable (field disp 0 4), hexTable (field disp 4 4), hexTable (field disp 8 4)⟩ := by
  simp only [decodeDisplay, h, decodeBank_hex]

theorem nonBlank_of_ne {a b : Byte} (ha : a ≠ space) (hb : b ≠ space) : nonBlank [a, b] = [a, b] := by
  simp [nonBlank, ha, hb]

/-- Settles O40: the hexadecimal table holds neither ' ' nor '-', so that `formatTime` takes the hour's branch and drops
no digit. -/
theorem plainBanksGiveHoursAndMinutes : Obligations.PlainBanksGiveHoursAndMinutes := by
  refine fun cfg ctrl disp => ⟨decodeBank_hex_ne cfg, fun hon hplain => ?_⟩
  have hne := fun lo => hexTable_ne (field disp lo 4)
  rw [formatTime_of_on cfg disp hon, decodeDisplay_of_plain cfg disp hplain,
    timeText_of_hour (hne 0).2 (hne 8).1 (hne 0).1, nonBlank_of_ne (hne 4).1 (hne 8).1, label_hour_unit,
    label_minute_unit]
  rfl

/-! ### The classification of the machine state (R175) -/

section
variable (cfg : Config) (rc : Byte) (rd : Word) {lc : Byte} {ld : Word}

theorem formatState_of_off (ld : Word) (h : lc.getLsbD 0 = false) :
    formatState cfg rc rd lc ld = label "Door open" := by
  rw [formatState, if_pos (isOff_of_clear h)]

theorem formatState_of_fault (hon : lc.getLsbD 0 = true) (h : (decodeDisplay cfg ld lc).c0 = dash) :
    formatState cfg rc rd lc ld = label "Fault" := by
  rw [formatState, isOff_of_set hon, if_neg Bool.false_ne_true]
  exact if_pos h

theorem formatState_of_normal (hon : lc.getLsbD 0 = true) (h : (decodeDisplay cfg ld lc).c0 ≠ dash) :
    formatState cfg rc rd lc ld = joinLabels (stateLabels cfg (decodeDisplay cfg ld lc) rd) := by
  rw [formatState, isOff_of_set hon, if_neg Bool.false_ne_true]
  exact if_neg h

end

/-- Settles O42: off is tested first, then the first character, and no branch reads the right control register. -/
theorem formatStateClassifiesTheLeftChip : Obligations.FormatStateClassifiesTheLeftChip :=
  fun cfg rc _ _ rd ld =>
    ⟨formatState_of_off cfg rc rd ld, fun hon h => formatState_of_fault cfg rc rd hon h, rfl⟩

/-! ### The labels of the Normal state (R174, R179, R182 to R184) -/

theorem label_comma_space : label ", " = [0x2C, 0x20] := by decide

theorem joinLabels_eq_intercalate (ts : List Text) : joinLabels ts = List.intercalate [0x2C, 0x20] ts := by
  induction ts with
  | nil => rfl
  | cons t ts ih =>
    cases ts with
    | nil => rw [joinLabels_single, List.intercalate_singleton]
    | cons u rest =>
      rw [joinLabels_cons, ih, label_comma_space, List.intercalate_cons_cons]

theorem phaseLabels_eq (cfg : Config) (left : Chars) (rd : Word) :
    phaseLabels cfg left rd = ((cfg.phaseTable (cfg.progressCode rd)).map (phaseLabel left)).toList := by
  unfold phaseLabels
  cases cfg.phaseTable (cfg.progressCode rd) <;> rfl

theorem centLabelList_eq (cfg : Config) (rd : Word) :
    centLabelList cfg rd = (cfg.centLabels (centCode cfg.centReading rd)).toList := by
  unfold centLabelList
  cases cfg.centLabels (centCode cfg.centReading rd) <;> rfl

theorem optionLabel_eq_filterMap (rd : Word) (i : Nat) (name : String) :
    optionLabel rd i name
      = ([(i, name)] : List (Nat × String)).filterMap (fun p => if rd.getLsbD p.1 then some (label p.2) else none) := by
  cases h : rd.getLsbD i <;> simp [optionLabel, h]

theorem optionLabels_eq_filterMap (rd : Word) :
    optionLabels rd
      = ([(8, "Pre-wash"), (6, "Short"), (7, "Wasser Plus"), (16, "Summer")] : List (Nat × String)).filterMap
        (fun p => if rd.getLsbD p.1 then some (label p.2) else none) := by
  rw [optionLabels]
  simp only [optionLabel_eq_filterMap, ← List.filterMap_append]
  rfl

/-- Settles O43: the Normal state joins the three groups of labels, each group in its own terms. -/
theorem stateLabelsAreIndependentAndOrdered : Obligations.StateLabelsAreIndependentAndOrdered := by
  rintro cfg rc lc rd ld phase cent options hon h0 rfl rfl rfl
  rw [formatState_of_normal cfg rc rd hon h0, joinLabels_eq_intercalate, stateLabels, phaseLabels_eq, centLabelList_eq,
    optionLabels_eq_filterMap]

theorem phaseLabel_idleFinished (left : Chars) :
    phaseLabel left .idleFinished = if left = ⟨0x20, 0x20, 0x30⟩ then label "Finished" else label "Idle" := rfl

theorem label_finished_ne_label_idle : label "Finished" ≠ label "Idle" := by decide

/-- Settles O44: the labels of the phases by evaluation, and "Finished" by the test of the left chip's display. -/
theorem phaseLabelsAndFinished : Obligations.PhaseLabelsAndFinished := by
  intro left
  refine ⟨rfl, rfl, rfl, rfl, rfl, rfl, rfl, ?_, ?_⟩ <;> rw [phaseLabel_idleFinished]
  · exact ⟨fun h => by_contra fun hne => label_finished_ne_label_idle (by rw [← h, if_neg hne]), fun h => if_pos h⟩
  · exact ⟨fun h heq => label_finished_ne_label_idle (by rw [← h, if_pos heq]), fun h => if_neg h⟩

/-! ### The centrifuge code (R180, R181) -/

theorem centCode_bit16Units (rd : Word) : centCode .bit16Units rd = ((rd >>> 16) &&& 0x7E).setWidth 8 := by
  have hmask : ∀ i < 8, (0x7E : Word).getLsbD i = (decide (1 ≤ i) && decide (i - 1 < 6)) := by decide
  ext i hi
  simp only [centCode, field, BitVec.getElem_shiftLeft, BitVec.getElem_setWidth, BitVec.getLsbD_extractLsb',
    BitVec.getLsbD_and, BitVec.getLsbD_ushiftRight, hmask i hi]
  rcases Nat.eq_zero_or_pos i with rfl | hpos
  · simp
  · have hbit : 17 + (i - 1) = 16 + i := by omega
    simp [hbit, Nat.not_lt.mpr hpos, Nat.succ_le_of_lt hpos, Bool.and_comm]

theorem centCode_fieldValue (rd : Word) : centCode .fieldValue rd = ((rd >>> 17) &&& 0x3F).setWidth 8 := by
  have hmask : ∀ i < 8, (0x3F : Word).getLsbD i = decide (i < 6) := by decide
  ext i hi
  simp only [centCode, field, BitVec.getElem_setWidth, BitVec.getLsbD_extractLsb', BitVec.getLsbD_and,
    BitVec.getLsbD_ushiftRight, hmask i hi, Bool.and_comm]

/-- As the field's value, the code is a number of 6 bits. -/
theorem centCode_fieldValue_lt (rd : Word) : (centCode .fieldValue rd).toNat < 0x40 := by
  have := (field rd 17 6).isLt
  rw [centCode, BitVec.toNat_setWidth]
  omega

/-- Settles O45: both readings bit by bit; a listed code, put at bit 16, is read back in units of bit 16, and 0x40 and
0x50 are too large for 6 bits. -/
theorem centrifugeCodeReadings : Obligations.CentrifugeCodeReadings := by
  have hlisted : ∀ k ∈ ([0x02, 0x04, 0x08, 0x50, 0x40, 0x30, 0x20, 0x10] : List Byte),
      centCode .bit16Units (k.setWidth 32 <<< 16) = k := by decide
  refine ⟨centCode_bit16Units, centCode_fieldValue, fun k hk => ⟨_, hlisted k hk⟩, fun rd => ⟨?_, ?_⟩⟩ <;>
    (intro h; have hlt := centCode_fieldValue_lt rd; rw [h] at hlt; exact absurd hlt (by decide))

/-- Settles O46: the listed codes by evaluation, and every other code word by word. -/
theorem centrifugeLabels : Obligations.CentrifugeLabels := by
  have hother : ∀ k : Byte, k ∉ ([0x02, 0x04, 0x08, 0x50, 0x40, 0x30, 0x20, 0x10] : List Byte) →
      defaultCentLabels k = none := by decide
  exact ⟨rfl, rfl, rfl, rfl, rfl, rfl, rfl, rfl, hother⟩

/-! ### The progress code (R176, R177) -/

theorem defaultProgressCode_eq_iff (rd : Word) :
    defaultProgressCode rd = 0x20 ↔ field rd 12 4 = 2 ∧ field rd 0 3 = 0 := by
  have hfields : ∀ (a : BitVec 4) (b : BitVec 3),
      (a.setWidth 8 <<< 4) ||| b.setWidth 8 = (0x20 : Byte) ↔ a = 2 ∧ b = 0 := by
    decide
  exact hfields _ _

/-- The first label begins the joined string. -/
theorem isPrefix_joinLabels_cons (t : Text) (ts : List Text) : t <+: joinLabels (t :: ts) := by
  cases ts with
  | nil => rw [joinLabels_single]
  | cons u rest => rw [joinLabels_cons, List.append_assoc]; exact List.prefix_append ..

theorem phaseLabels_hardware_of_washing (left : Chars) {rd : Word} (h : defaultProgressCode rd = 0x20) :
    phaseLabels Config.hardware left rd = [label "Washing"] := by
  have htable : Config.hardware.phaseTable (Config.hardware.progressCode rd) = some .washing := if_pos h
  rw [phaseLabels_eq, htable]; rfl

/-- Settles O47: the code's two fields, and the phase label in front of the others. -/
theorem progressCode20IsWashing : Obligations.ProgressCode20IsWashing := by
  refine ⟨defaultProgressCode_eq_iff, fun rc lc rd ld hon h0 hhigh hlow => ?_⟩
  have hcode := (defaultProgressCode_eq_iff rd).mpr ⟨hhigh, hlow⟩
  rw [formatState_of_normal _ rc rd hon h0, stateLabels, phaseLabels_hardware_of_washing _ hcode]
  exact isPrefix_joinLabels_cons _ _

/-! ### The unread display bits (R186) -/

section
variable {rd rd' : Word} (h : rd &&& 0x007FF1C7 = rd' &&& 0x007FF1C7)
include h

theorem defaultProgressCode_congr : defaultProgressCode rd = defaultProgressCode rd' := by
  rw [defaultProgressCode, defaultProgressCode, field_congr (lo := 12) h (by decide) (by decide),
    field_congr (lo := 0) h (by decide) (by decide)]

theorem centCode_congr (reading : CentReading) : centCode reading rd = centCode reading rd' := by
  cases reading <;> rw [centCode, centCode, field_congr (lo := 17) h (by decide) (by decide)]

theorem optionLabels_congr : optionLabels rd = optionLabels rd' := by
  have hbit : ∀ {i : Nat} (name : String), (0x007FF1C7 : Word).getLsbD i = true →
      optionLabel rd i name = optionLabel rd' i name := fun name hm => by
    rw [optionLabel, optionLabel, bit_congr h hm]
  rw [optionLabels, optionLabels, hbit _ (by decide), hbit _ (by decide), hbit _ (by decide), hbit _ (by decide)]

end

/-- Settles O48: each group of labels reads only bits that the mask keeps. -/
theorem unreadDisplayBitsDoNotMatter : Obligations.UnreadDisplayBitsDoNotMatter := by
  intro cfg rc lc rd rd' ld hprogress h
  have hlabels : ∀ left, stateLabels cfg left rd = stateLabels cfg left rd' := fun left => by
    rw [stateLabels, stateLabels, phaseLabels_eq, phaseLabels_eq, centLabelList_eq, centLabelList_eq, hprogress,
      defaultProgressCode_congr h, centCode_congr h, optionLabels_congr h]
  simp only [formatState, hlabels]

end Sys2Proof.Machine
end

section
/-! Reset, event sources and the polling host (10_state.md section 5, 70_reset_and_hazards.md section 1,
60_exceptions.md sections 3 and 4). -/

namespace Sys2Proof.Machine

open Sys2Proof.Safety

/-! ### Reset -/

/-- Settles O50: both channels are the reset channel, whose fields are the values listed. -/
theorem resetValues : Obligations.ResetValues := by
  refine ⟨fun c => ?_, rfl, rfl, rfl⟩
  rw [show State.reset.chan c = _ from resetWith_chan Config.hardware c]
  exact ⟨rfl, rfl, rfl, rfl, rfl, rfl, rfl⟩

/-- Settles O51: each query reads registers that are 0 at reset; a control register of 0 is off. -/
theorem queriesAfterReset : Obligations.QueriesAfterReset := by
  refine ⟨fun c => ?_, ?_, ?_⟩
  · cases c <;> exact ⟨rfl, rfl, rfl, rfl⟩
  · rw [← label_single_space, ← formatTime_of_off Config.hardware 0 (ctrl := 0) rfl]; rfl
  · rw [← formatState_of_off Config.hardware 0 0 (lc := 0) 0 rfl]; rfl

/-! ### Event sources (R205) -/

theorem event_clock (cfg : Config) (e : Edge) (d : Bit) :
    (LineEdge.clock e d).event cfg = if edgeReacts cfg.clkEdge e then some (.clk d) else none := rfl

/-- Settles O54: the clock's mode reacts to the edge of its name alone, and a chip select's mode to both. -/
theorem activeEdgesMakeEvents : Obligations.ActiveEdgesMakeEvents := by
  refine fun cfg d c => ⟨fun hrising => ?_, fun hfalling => ?_, rfl, rfl⟩
  · rw [event_clock, event_clock, hrising]; exact ⟨rfl, rfl⟩
  · rw [event_clock, event_clock, hfalling]; exact ⟨rfl, rfl⟩

/-! ### The polling host (R212) -/

theorem Sink.offer_of_eq {k : Sink} {v : Text} (h : v = k.currentValue) : k.offer v = k := if_pos h

theorem Sink.offer_of_ne {k : Sink} {v : Text} (h : v ≠ k.currentValue) : k.offer v = ⟨v, v :: k.published⟩ := if_neg h

theorem Sink.offer_currentValue (k : Sink) (v : Text) : (k.offer v).currentValue = v := by
  by_cases h : v = k.currentValue
  · rw [Sink.offer_of_eq h, h]
  · rw [Sink.offer_of_ne h]

theorem Sink.offer_offer (k : Sink) (v : Text) : (k.offer v).offer v = k.offer v :=
  Sink.offer_of_eq (k.offer_currentValue v).symm

/-- What a sink was given since `init`, newest first, starts with its current value and has no equal neighbours. -/
def Sink.PublishedChanges (init : Text) (k : Sink) : Prop :=
  (k.published ++ [init]).head? = some k.currentValue ∧ noNeighboursEqual (k.published ++ [init])

theorem noNeighboursEqual_cons {v : Text} {given : List Text} (hne : ∀ u ∈ given.head?, v ≠ u)
    (h : noNeighboursEqual given) : noNeighboursEqual (v :: given) := by
  cases given with
  | nil => trivial
  | cons u rest => exact ⟨hne u rfl, h⟩

theorem Sink.PublishedChanges.offer {init : Text} {k : Sink} (h : k.PublishedChanges init) (v : Text) :
    (k.offer v).PublishedChanges init := by
  by_cases hv : v = k.currentValue
  · rw [Sink.offer_of_eq hv]; exact h
  · obtain ⟨hhead, hgiven⟩ := h
    rw [Sink.offer_of_ne hv]
    exact ⟨rfl, noNeighboursEqual_cons (fun _ hu => Option.some.inj (hhead.symm.trans hu) ▸ hv) hgiven⟩

/-- Both sinks of the host were given changes only. -/
def Sinks.PublishedChanges (k : Sinks) : Prop :=
  k.time.PublishedChanges Config.openSinkInit ∧ k.state.PublishedChanges Config.openSinkInit

theorem Sinks.publishedChanges_init : Sinks.init.PublishedChanges := ⟨⟨rfl, trivial⟩, ⟨rfl, trivial⟩⟩

theorem Sinks.PublishedChanges.poll {k : Sinks} (h : k.PublishedChanges) (cfg : Config) (s : State) :
    (k.poll cfg s).PublishedChanges := ⟨h.1.offer _, h.2.offer _⟩

theorem Sinks.PublishedChanges.polls {k : Sinks} (h : k.PublishedChanges) (cfg : Config) (polled : List State) :
    (polled.foldl (fun k s => k.poll cfg s) k).PublishedChanges := by
  induction polled generalizing k with
  | nil => exact h
  | cons s polled ih => exact ih (h.poll cfg s)

theorem Sinks.poll_poll (cfg : Config) (s : State) (k : Sinks) : (k.poll cfg s).poll cfg s = k.poll cfg s := by
  simp only [Sinks.poll, Sink.offer_offer]

/-- Settles O55: a sink that shows a string does not take it again, and a string that a sink takes differs from the one
that it shows, which is the latest it was given. -/
theorem pollPublishesOnlyChanges : Obligations.PollPublishesOnlyChanges := by
  refine ⟨fun cfg s k => k.poll_poll cfg s, ?_⟩
  rintro cfg polled k rfl
  obtain ⟨⟨_, htime⟩, ⟨_, hstate⟩⟩ := Sinks.publishedChanges_init.polls cfg polled
  exact ⟨htime, hstate⟩

end Sys2Proof.Machine
end
